-- ==== Sys2Proof/Word.lean ====
section
/-! DEFINITION. The word types of the block: bytes, 64-bit words, binary64 values and complex pairs
(spec/00_scope.md rules R7, R8; spec/20_memory.md rules R82, R83). -/

namespace Sys2Proof

/-- One byte lane of the host bus (R82). -/
abbrev Byte := BitVec 8

/-- A 64-bit DMEM word or register value (R32, R81). -/
abbrev Word := BitVec 64

/-- The bits of a binary64 value: bit 63 sign, bits 62:52 biased exponent, bits 51:0 fraction (R8, R83). -/
abbrev F64 := BitVec 64

/-- A `c64` value, the ordered pair (re, im) of R8. -/
structure C64 where
  re : F64
  im : F64
deriving DecidableEq, Repr, Inhabited

end Sys2Proof
end

