-- ==== Sys2Proof/Syntax.lean ====
section
/-! DEFINITION. The command set (spec/30_encoding.md rules R110, R112), the register and field names
(spec/10_state.md rule R32) and the statements of a host program (R120 to R122), as syntax. -/

namespace Sys2Proof

/-- The eight commands of R112, one constructor per row of the opcode table. No command has an operand
field (R110): every operand is a configuration register read through the snapshot (R113). -/
inductive Instr where
  /-- NOP, opcode 0x00 (R300). -/
  | nop
  /-- PLAN, opcode 0x01 (R141). -/
  | plan
  /-- FFT_FWD, opcode 0x10 (R142). -/
  | fftFwd
  /-- FFT_REAL, opcode 0x11 (R143). -/
  | fftReal
  /-- FFT_INV, opcode 0x12 (R144). -/
  | fftInv
  /-- WIN_GEN, opcode 0x20 (R201). -/
  | winGen
  /-- MEL_BUILD, opcode 0x30 (R221). -/
  | melBuild
  /-- SPECTROGRAM, opcode 0x40 (R251). -/
  | spectrogram
deriving DecidableEq, Repr

/-- A command word in format C (R110): OPCODE in bits 7:0, RSVD in bits 63:8. -/
structure RawCmd where
  rsvd : BitVec 56
  opcode : BitVec 8
deriving DecidableEq, Repr

/-- The registers of R32's map, each under the spec's own name. -/
inductive Reg where
  | ID | HWCFG | CTRL | STATUS | CMD | ERR_CODE
  | PLAN_N | PLAN_CUR_N | PLAN_M | PLAN_OBUF
  | FFT_SRC | FFT_DST
  | WIN_DST | WIN_LEN | WIN_CFG
  | MEL_DST | MEL_NBINS | MEL_NFILT | MEL_FMIN | MEL_FMAX | MEL_SR | MEL_CFG
  | SG_WAVE_ADDR | SG_WAVE_LEN | SG_FRAME_LEN | SG_FFT_LEN | SG_HOP
  | SG_WIN_ADDR | SG_WIN_LEN | SG_MEL_ADDR | SG_MEL_ROWS | SG_MEL_COLS
  | SG_OUT_ADDR | SG_MIN_FRAMES | SG_MAX_FRAMES | SG_CFG
  | SG_POWER | SG_PREEMPH | SG_MEL_FLOOR | SG_REF | SG_MIN_VALUE | SG_DB_RANGE
  | SG_OUT_ROWS | SG_OUT_FRAMES | SG_COMP_FRAMES
deriving DecidableEq, Repr

/-- The named register fields of R33 to R38, R46, R47 and R49 (written `NAME.FIELD` by R120). -/
inductive Field where
  | ID_MAGIC | ID_REV
  | HWCFG_DMEM_AW | HWCFG_PLAN_MAX_LOG2
  | CTRL_IRQ_EN
  | STATUS_BUSY | STATUS_DONE | STATUS_ERR | STATUS_CMD_OVERRUN | STATUS_PLAN_VALID | STATUS_PLAN_BS
  | ERR_CODE_CODE | ERR_CODE_OPCODE
  | WIN_CFG_KIND | WIN_CFG_PERIODIC
  | MEL_CFG_NORM | MEL_CFG_SCALE | MEL_CFG_TRI_MEL
  | SG_CFG_CENTER | SG_CFG_PAD_MODE | SG_CFG_ONESIDED | SG_CFG_POWER_EN | SG_CFG_PREEMPH_EN
  | SG_CFG_REMOVE_DC | SG_CFG_MEL_EN | SG_CFG_LOG_MEL | SG_CFG_DB_RANGE_EN | SG_CFG_MIN_FRAMES_EN
  | SG_CFG_MAX_FRAMES_EN | SG_CFG_DO_PAD | SG_CFG_TRANSPOSE
deriving DecidableEq, Repr

/-- A number of a host program (R120). -/
inductive Literal where
  /-- A decimal or hexadecimal integer. -/
  | int (n : Nat)
  /-- `f:` and a decimal floating literal: (-1)^neg * digits * 10^exp10. -/
  | f64Dec (neg : Bool) (digits : Nat) (exp10 : Int)
  /-- `f:0x` and the 16 hexadecimal digits of the bit pattern. -/
  | f64Bits (w : F64)
deriving DecidableEq, Repr

/-- The host statements of R121 and the pseudo-instructions of R122. The expected value a `RD`, `MR`,
`CHECK_OK` or `CHECK_ERR` also states is a claim about the answer, not a bus transaction. -/
inductive Stmt where
  /-- `WR NAME, v` -/
  | wr (r : Reg) (v : Literal)
  /-- `WRF NAME.FIELD, v` -/
  | wrf (f : Field) (v : Nat)
  /-- `RD NAME` -/
  | rd (r : Reg)
  /-- `MW a, v0, v1, ...` -/
  | mw (a : Nat) (vs : List Literal)
  /-- `MR a, n` -/
  | mr (a n : Nat)
  /-- `CMD mnemonic` -/
  | cmd (i : Instr)
  /-- `WAIT` -/
  | wait
  /-- `RUN mnemonic` -/
  | run (i : Instr)
  /-- `ACK` -/
  | ack
  /-- `CHECK_OK` -/
  | checkOk
  /-- `CHECK_ERR code` -/
  | checkErr
deriving DecidableEq, Repr

end Sys2Proof
end

