-- ==== Sys2Proof/WellFormed.lean ====
section
/-! DEFINITION. Well-formed command words (spec/30_encoding.md rules R110, R111, R114). A command has no
operand, so every `Instr` is well formed; the checks are on the two fields of format C. -/

namespace Sys2Proof

/-- "reserved; must be 0" (R110). -/
def RawCmd.rsvdZero (c : RawCmd) : Bool := c.rsvd == 0

/-- OPCODE is one of the eight values of R112 (R114 lists the rest as illegal). -/
def RawCmd.opcodeListed (c : RawCmd) : Bool :=
  [(0x00 : BitVec 8), 0x01, 0x10, 0x11, 0x12, 0x20, 0x30, 0x40].contains c.opcode

/-- A command word that R111 lets run: both checks of format C hold. -/
def RawCmd.WellFormed (c : RawCmd) : Bool := c.rsvdZero && c.opcodeListed

/-- Every command is well formed: R110 gives it no register, immediate, mode or function field to check. -/
def Instr.WellFormed (_ : Instr) : Bool := true

end Sys2Proof
end

