-- ==== Sys2Proof/Decode.lean ====
section
/-! DEFINITION. The decoder and the encoder of command words (spec/30_encoding.md rules R110 to R114,
R118) and the byte order of a word (spec/20_memory.md rule R82). -/

namespace Sys2Proof

/-! ## Byte lanes -/

/-- Byte `i` of a word: bits [8i+7:8i] (R82). -/
def wordByte (w : Word) (i : Nat) : Byte := w.extractLsb' (8 * i) 8

/-- The eight bytes of a word, lowest host address first (R82). -/
def wordBytes (w : Word) : List Byte := (List.range 8).map (wordByte w)

/-- The word whose bytes, lowest host address first, are `bs` (R82). -/
def wordOfBytes : List Byte → Word
  | [] => 0
  | b :: bs => (wordOfBytes bs <<< 8) ||| b.setWidth 64

/-! ## Decoding -/

/-- Why a command word or byte string selects no command. -/
inductive Illegal where
  /-- A bit of RSVD is set (R111, R114). -/
  | reservedBits
  /-- OPCODE is none of R112's eight values (R111, R114). -/
  | unknownOpcode (opcode : BitVec 8)
  /-- Fewer than the eight bytes of a command word (R118): no such word reaches CMD (R84). -/
  | truncated
deriving DecidableEq, Repr

/-- The two fields of format C (R110). -/
def rawCmd (w : Word) : RawCmd :=
  { rsvd := w.extractLsb' 8 56, opcode := w.extractLsb' 0 8 }

/-- R112's opcode map, read from the opcode to the command. -/
def instrOfOpcode (op : BitVec 8) : Option Instr :=
  if op = 0x00 then some .nop
  else if op = 0x01 then some .plan
  else if op = 0x10 then some .fftFwd
  else if op = 0x11 then some .fftReal
  else if op = 0x12 then some .fftInv
  else if op = 0x20 then some .winGen
  else if op = 0x30 then some .melBuild
  else if op = 0x40 then some .spectrogram
  else none

/-- Decoding is total: every 64-bit word either selects one command of R112 or is illegal (R111). -/
def decode (w : Word) : Except Illegal Instr :=
  if (rawCmd w).rsvdZero then
    match instrOfOpcode (rawCmd w).opcode with
    | some i => .ok i
    | none => .error (.unknownOpcode (rawCmd w).opcode)
  else .error .reservedBits

/-- Decoding on bytes as the host lays a command word out (R82, R118): eight bytes, and the rest. -/
def decodeBytes (bs : List Byte) : Except Illegal (Instr × List Byte) :=
  if bs.length < 8 then .error .truncated
  else
    match decode (wordOfBytes (bs.take 8)) with
    | .ok i => .ok (i, bs.drop 8)
    | .error e => .error e

/-- The instruction the decoder reads from the table word `w` of `nbits` bits: the word is laid out as
eight little-endian bytes (R82), every bit above `nbits` zero. -/
def decodeTableWord (nbits w : Nat) : Option Instr :=
  match decodeBytes (wordBytes (BitVec.ofNat 64 (w % 2 ^ nbits))) with
  | .ok (i, _) => some i
  | .error _ => none

/-! ## Encoding -/

/-- R112's opcode map, read from the command to the opcode. -/
def opcodeOf : Instr → BitVec 8
  | .nop => 0x00
  | .plan => 0x01
  | .fftFwd => 0x10
  | .fftReal => 0x11
  | .fftInv => 0x12
  | .winGen => 0x20
  | .melBuild => 0x30
  | .spectrogram => 0x40

/-- The command word of a command: OPCODE in bits 7:0, RSVD zero (R110, R112). -/
def encode (i : Instr) : Word := (0 : BitVec 56) ++ opcodeOf i

end Sys2Proof
end

