-- ==== Sys2Proof/Config.lean ====
section
/-! DEFINITION. The instance parameters of spec/00_scope.md rule R6 and the free values: the
transcendental functions of R13, the NaN bits of R14 and the latencies of R370. A free value is an
opaque constant with no body, so a proof about it holds whatever it is. -/

namespace Sys2Proof

/-- `POWER_EXP_RULE` (R6, R262, conflict C4). -/
inductive PowerExpRule where
  | twoOverPower
  | powerOverTwo
deriving DecidableEq, Repr

/-- The parameters of one instance (R6). They never change (R34); `State` carries them so that a
statement about every state is a statement about every instance. -/
structure Params where
  /-- `DMEM_AW`: DMEM holds `2 ^ DMEM_AW` words. -/
  dmemAw : Nat
  /-- `PLAN_MAX_LOG2`: the largest plan or inner length is `2 ^ PLAN_MAX_LOG2`. -/
  planMaxLog2 : Nat
  /-- `POWER_EXP_RULE`: the exponent of SPECTROGRAM step 5. -/
  powerExpRule : PowerExpRule
deriving DecidableEq, Repr

/-- The defaults of R6 for executable models. -/
def Params.default : Params :=
  { dmemAw := 20, planMaxLog2 := 16, powerExpRule := .twoOverPower }

/-- The ranges of R6: `DMEM_AW` in 10..20 and `PLAN_MAX_LOG2` in 2..24. -/
abbrev Params.Legal (p : Params) : Prop :=
  10 ≤ p.dmemAw ∧ p.dmemAw ≤ 20 ∧ 2 ≤ p.planMaxLog2 ∧ p.planMaxLog2 ≤ 24

namespace Config

/-! The unconstrained parts of the F_* parameters (R6, R13). Machine/Trans.lean puts R13's special
values and bounds around them; nothing else is assumed of them. -/

/-- Free part of `F_cos`. -/
opaque rawCos : F64 → F64
/-- Free part of `F_sin`. -/
opaque rawSin : F64 → F64
/-- Free part of `F_exp`. -/
opaque rawExp : F64 → F64
/-- Free part of `F_ln`. -/
opaque rawLn : F64 → F64
/-- Free part of `F_log10`. -/
opaque rawLog10 : F64 → F64
/-- Free part of `F_pow` (x raised to y). -/
opaque rawPow : F64 → F64 → F64
/-- Free part of `F_atan2` (of y, x). -/
opaque rawAtan2 : F64 → F64 → F64

/-- Sign (bit 51) and payload (bits 50:0) of the quiet NaN of draw `k` (R14, U2). -/
opaque freeNaN : Nat → BitVec 52

/-- How many host operations are ordered between the acceptance of a command and its completion, for
draw `k` (R315, R370, U7, U8): any number, always finite (R362). -/
opaque freeLatency : Nat → Nat

end Config

end Sys2Proof
end

