-- ==== Sys2Proof/Machine/F64.lean ====
section
/-! DEFINITION. binary64 arithmetic (spec/00_scope.md rules R8 to R16): exact integers in units of 2^-1074,
rounded once to nearest, ties to even. Every finite binary64 value is a whole number of units. -/

namespace Sys2Proof.Machine

/-! ## Layout (R83) and classes -/

/-- The sign bit (R83). -/
def fsign (a : F64) : Bool := a.getLsbD 63
/-- The biased exponent (R83). -/
def fexpo (a : F64) : Nat := (a.extractLsb' 52 11).toNat
/-- The fraction (R83). -/
def ffrac (a : F64) : Nat := (a.extractLsb' 0 52).toNat

/-- NaN: exponent all ones, fraction not zero. -/
def fisNaN (a : F64) : Bool := fexpo a == 2047 && ffrac a != 0
/-- An infinity: exponent all ones, fraction zero. -/
def fisInf (a : F64) : Bool := fexpo a == 2047 && ffrac a == 0
/-- A finite value. -/
def fisFinite (a : F64) : Bool := fexpo a != 2047
/-- +0.0 or -0.0. -/
def fisZero (a : F64) : Bool := fexpo a == 0 && ffrac a == 0

/-- +0.0. -/
def fzero : F64 := 0x0000000000000000#64
/-- 1.0. -/
def fone : F64 := 0x3FF0000000000000#64
/-- 2.0. -/
def ftwo : F64 := 0x4000000000000000#64
/-- +infinity. -/
def finf : F64 := 0x7FF0000000000000#64
/-- -infinity. -/
def fninf : F64 := 0xFFF0000000000000#64
/-- The NaN used inside a command; its bits are never observable (R14, log entry 6). -/
def fnan : F64 := 0x7FF8000000000000#64
/-- `PI64` (R16). -/
def fpi : F64 := 0x400921FB54442D18#64
/-- `TWO_PI64` = 2*PI64, exact (R16). -/
def ftwoPi : F64 := 0x401921FB54442D18#64

/-- Every NaN read as the one NaN value: no rule reads a payload (R14). -/
def fcanon (a : F64) : F64 := if fisNaN a then fnan else a

/-! ## Exact values and rounding -/

/-- `2 ^ 1074`: how many units of 2^-1074 make 1.0. -/
def unitsPerOne : Nat := 2 ^ 1074

/-- The magnitude of a finite value in units of 2^-1074 (R83). -/
def fmag (a : F64) : Nat :=
  if fexpo a = 0 then ffrac a else (2 ^ 52 + ffrac a) * 2 ^ (fexpo a - 1)

/-- A finite value in units of 2^-1074, with its sign. -/
def funits (a : F64) : Int := if fsign a then -(fmag a : Int) else (fmag a : Int)

/-- The low 63 bits of the binary64 value nearest to n/d units, ties to even (R10). `k` is the exponent of
the spacing of the binary64 values around n/d: they are the multiples of 2^k units. -/
def roundMag (n d : Nat) : Nat :=
  let k := Nat.log2 (n / d) - 52
  let q := d * 2 ^ k
  let m := n / q
  let r := n % q
  let m' := if 2 * r > q ∨ (2 * r = q ∧ m % 2 = 1) then m + 1 else m
  min (m' + k * 2 ^ 52) 0x7FF0000000000000

/-- A value from its sign and its low 63 bits (R83). -/
def fpack (neg : Bool) (bits : Nat) : F64 := BitVec.ofNat 64 (bits + if neg then 2 ^ 63 else 0)

/-- The binary64 value nearest to ±n/d units, ties to even; too large a value gives an infinity (R10). -/
def fround (neg : Bool) (n d : Nat) : F64 := fpack neg (roundMag n d)

/-! ## Arithmetic (R10). A NaN operand, or an operation IEEE 754 calls invalid, gives NaN. -/

/-- `-a`, the exact sign flip (R10). -/
def fneg (a : F64) : F64 := a ^^^ 0x8000000000000000#64

/-- The sign of an exact sum `z` of two finite values: a zero sum of like-signed zeros keeps their sign, any
other zero sum is +0.0 (IEEE 754 in round-to-nearest). -/
def sumSign (a b : F64) (z : Int) : Bool := if z = 0 then fsign a && fsign b else decide (z < 0)

/-- `a + b` (R10). -/
def fadd (a b : F64) : F64 :=
  if fisNaN a || fisNaN b then fnan
  else if fisInf a then (if fisInf b && (fsign a != fsign b) then fnan else a)
  else if fisInf b then b
  else
    let z := funits a + funits b
    fround (sumSign a b z) z.natAbs 1

/-- `a - b` (R10). -/
def fsub (a b : F64) : F64 := fadd a (fneg b)

/-- `a * b` (R10). -/
def fmul (a b : F64) : F64 :=
  let neg := fsign a != fsign b
  if fisNaN a || fisNaN b then fnan
  else if fisInf a || fisInf b then
    (if fisZero a || fisZero b then fnan else fpack neg 0x7FF0000000000000)
  else fround neg (fmag a * fmag b) unitsPerOne

/-- `a / b` (R10). -/
def fdiv (a b : F64) : F64 :=
  let neg := fsign a != fsign b
  if fisNaN a || fisNaN b then fnan
  else if fisInf a then (if fisInf b then fnan else fpack neg 0x7FF0000000000000)
  else if fisInf b then fpack neg 0
  else if fisZero b then (if fisZero a then fnan else fpack neg 0x7FF0000000000000)
  else fround neg (fmag a * unitsPerOne) (fmag b)

/-- The integer square root of `n` among the numbers below `acc + 2^bits`, one bit at a time. -/
def isqrtBits (n : Nat) : Nat → Nat → Nat
  | 0, acc => acc
  | b + 1, acc =>
    if (acc + 2 ^ b) * (acc + 2 ^ b) ≤ n then isqrtBits n b (acc + 2 ^ b) else isqrtBits n b acc

/-- The integer square root: the largest r with r*r ≤ n. -/
def isqrt (n : Nat) : Nat := isqrtBits n (Nat.log2 n / 2 + 1) 0

/-- `sqrt(a)` (R10). The root of X units is sqrt(X * 2^1074) units. It is rounded from twice its integer part
plus a sticky bit that says whether the root is inexact: both lie on the same side of every rounding
boundary, because a root that is not zero is at least 2^537 units. -/
def fsqrt (a : F64) : F64 :=
  if fisNaN a then fnan
  else if fisZero a then a
  else if fsign a then fnan
  else if fisInf a then a
  else
    let n := fmag a * unitsPerOne
    let r := isqrt n
    fround false (2 * r + if r * r = n then 0 else 1) 2

/-! ## Integers (R8, R9) -/

/-- `f64(n)` for n ≥ 0: exact when n ≤ 2^53, otherwise rounded to nearest, ties to even (R9). -/
def f64OfNat (n : Nat) : F64 := fround false (n * unitsPerOne) 1

/-- `f64(n)` for an int (R9). -/
def f64OfInt (n : Int) : F64 := fround (decide (n < 0)) (n.natAbs * unitsPerOne) 1

/-- The binary64 value nearest to ±digits * 10^exp10, the value of a decimal literal (R120, log entry 12). -/
def f64OfDecimal (neg : Bool) (digits : Nat) (exp10 : Int) : F64 :=
  fround neg (digits * unitsPerOne * 10 ^ exp10.toNat) (10 ^ (-exp10).toNat)

/-- `is_pow2(n)` (R9). -/
def isPow2 (n : Nat) : Bool := decide (1 ≤ n) && (2 ^ Nat.log2 n == n)

/-- `next_pow2(n)` for n ≥ 1: the least 2^p with 2^p ≥ n (R9). -/
def nextPow2 (n : Nat) : Nat := if n ≤ 1 then 1 else 2 ^ (Nat.log2 (n - 1) + 1)

/-! ## Comparisons (IEEE) and R15's maximum and minimum -/

/-- The order of the values that are not NaN; the two zeros are equal. -/
def fkey (a : F64) : Int :=
  let m : Nat := (a.extractLsb' 0 63).toNat
  if fsign a then -(m : Int) else (m : Int)

/-- `a < b`; false when one is NaN. -/
def flt (a b : F64) : Bool := !(fisNaN a) && !(fisNaN b) && decide (fkey a < fkey b)
/-- `a ≤ b`; false when one is NaN. -/
def fle (a b : F64) : Bool := !(fisNaN a) && !(fisNaN b) && decide (fkey a ≤ fkey b)
/-- `a == b`; false when one is NaN. -/
def feq (a b : F64) : Bool := !(fisNaN a) && !(fisNaN b) && decide (fkey a = fkey b)

/-- R15's order: as `fkey`, with -0.0 below +0.0. -/
def ftotal (a : F64) : Int :=
  let m : Nat := (a.extractLsb' 0 63).toNat
  if fsign a then -(m : Int) - 1 else (m : Int)

/-- `fmax(a, b)` (R15). -/
def fmax (a b : F64) : F64 :=
  if fisNaN a || fisNaN b then fnan else if ftotal a < ftotal b then b else a

/-- `fmin(a, b)` (R15). -/
def fmin (a b : F64) : F64 :=
  if fisNaN a || fisNaN b then fnan else if ftotal b < ftotal a then b else a

/-- `maxseq(v[0..n-1])`, folded left from its first element (R15); the sequence is its head and its tail. -/
def maxseq (v0 : F64) (vs : List F64) : F64 := vs.foldl fmax v0

/-! ## Complex values (R11, R12) -/

/-- `cadd` (R11). -/
def cadd (a b : C64) : C64 := ⟨fadd a.re b.re, fadd a.im b.im⟩
/-- `csub` (R11). -/
def csub (a b : C64) : C64 := ⟨fsub a.re b.re, fsub a.im b.im⟩
/-- `conj` (R11). -/
def cconj (a : C64) : C64 := ⟨a.re, fneg a.im⟩
/-- `cscale_div` (R11). -/
def cscaleDiv (a : C64) (d : F64) : C64 := ⟨fdiv a.re d, fdiv a.im d⟩
/-- `rot_neg_i`: multiplication by -i (R11). -/
def rotNegI (a : C64) : C64 := ⟨a.im, fneg a.re⟩
/-- `rot_pos_i`: multiplication by +i (R11). -/
def rotPosI (a : C64) : C64 := ⟨fneg a.im, a.re⟩
/-- `cmul`, data value first, table value second; four products, then one subtraction and one addition (R12). -/
def cmul (a b : C64) : C64 :=
  ⟨fsub (fmul a.re b.re) (fmul a.im b.im), fadd (fmul a.re b.im) (fmul a.im b.re)⟩
/-- `rmul` (R12). -/
def rmul (x : F64) (b : C64) : C64 := ⟨fmul x b.re, fmul x b.im⟩
/-- (+0.0, +0.0). -/
def czero : C64 := ⟨fzero, fzero⟩

/-- The complex operations the FFT datapaths are built from. R180 reads the datapaths in exact arithmetic, so
they are written over these operations; the block computes with `f64Arith`. -/
structure CArith (R C : Type) where
  /-- +0.0. -/
  rzero : R
  /-- (x, +0.0). -/
  ofReal : R → C
  /-- `rmul`, data value first. -/
  rmul : R → C → C
  /-- (+0.0, +0.0). -/
  zero : C
  /-- `cadd`. -/
  add : C → C → C
  /-- `csub`. -/
  sub : C → C → C
  /-- `cmul`, data value first. -/
  mul : C → C → C
  /-- `conj`. -/
  conj : C → C
  /-- `rot_neg_i`. -/
  rotNegI : C → C
  /-- `rot_pos_i`. -/
  rotPosI : C → C
  /-- `cscale_div(a, f64(n))`. -/
  divNat : C → Nat → C

/-- The c64 arithmetic of R11 and R12. -/
def f64Arith : CArith F64 C64 :=
  { rzero := fzero, ofReal := fun x => ⟨x, fzero⟩, rmul := rmul, zero := czero, add := cadd, sub := csub, mul := cmul, conj := cconj, rotNegI := rotNegI,
    rotPosI := rotPosI, divNat := fun a n => cscaleDiv a (f64OfNat n) }

/-! ## NaN bits (R14) -/

/-- The quiet NaN whose sign is bit 51 of `d` and whose payload is bits 50:0 (R14, R83). -/
def quietNaN (d : BitVec 52) : F64 :=
  d.extractLsb' 51 1 ++ 0x7FF#11 ++ 1#1 ++ d.extractLsb' 0 51

/-- A result as the engine writes it: a NaN becomes the quiet NaN of draw `k` (R14). -/
def settleNaN (k : Nat) (v : F64) : F64 := if fisNaN v then quietNaN (Config.freeNaN k) else v

/-- A sequence of results as the engine writes it, the first with draw `k`. -/
def settleNaNs : Nat → List F64 → List F64
  | _, [] => []
  | k, v :: vs => settleNaN k v :: settleNaNs (k + 1) vs

end Sys2Proof.Machine
end

