-- ==== Sys2Proof/Machine/State.lean ====
section
/-! DEFINITION. The machine's state as plain data: every register of spec/10_state.md rule R32, the plan
state (R50), the running command and its snapshot (R51), DMEM (R52), the bus and reset signals (R89),
and the host's pending operations; and its value right after reset (spec/70_reset_and_hazards.md R351). -/

namespace Sys2Proof.Machine

/-- Why the machine stops with a fault. -/
inductive Fault where
  /-- A command or a host read reads a DMEM word with a byte that nothing has written since reset. Raised
  by FFT_FWD, FFT_REAL, FFT_INV and SPECTROGRAM on such an input buffer and by a host read of the DMEM
  window. Safe: R99 and 93_implementation_defined.md U1 ask for a fault here in preference to a value. -/
  | unwrittenRead
deriving DecidableEq, Repr

/-- Why the machine refuses to go on. -/
inductive Refusal where
  /-- An instruction that has no meaning yet. Raised by an arm of `exec` only; no arm of this model does.
  Safe: the machine stops. -/
  | notModelled (mnemonic : String)
deriving DecidableEq, Repr

/-- STATUS's six fields (R36); bits 63:6 are reserved and read 0. -/
structure Status where
  busy : Bool
  done : Bool
  err : Bool
  cmdOverrun : Bool
  planValid : Bool
  planBs : Bool
deriving DecidableEq, Repr

/-- ERR_CODE's two fields (R38); bits 63:16 are reserved and read 0. -/
structure ErrReg where
  code : BitVec 8
  opcode : BitVec 8
deriving DecidableEq, Repr

/-- The configuration registers of R43 and R45 to R49, which a command reads through its snapshot: a u32
register holds bits 31:0 (R39), an f64 register all 64 bits (R40), WIN_CFG, MEL_CFG and SG_CFG the bits
that are not reserved (R46, R47, R49). -/
structure ConfigRegs where
  planN : BitVec 32
  fftSrc : BitVec 32
  fftDst : BitVec 32
  winDst : BitVec 32
  winLen : BitVec 32
  winCfg : BitVec 5
  melDst : BitVec 32
  melNbins : BitVec 32
  melNfilt : BitVec 32
  melFmin : F64
  melFmax : F64
  melSr : F64
  melCfg : BitVec 9
  sgWaveAddr : BitVec 32
  sgWaveLen : BitVec 32
  sgFrameLen : BitVec 32
  sgFftLen : BitVec 32
  sgHop : BitVec 32
  sgWinAddr : BitVec 32
  sgWinLen : BitVec 32
  sgMelAddr : BitVec 32
  sgMelRows : BitVec 32
  sgMelCols : BitVec 32
  sgOutAddr : BitVec 32
  sgMinFrames : BitVec 32
  sgMaxFrames : BitVec 32
  sgCfg : BitVec 17
  sgPower : F64
  sgPreemph : F64
  sgMelFloor : F64
  sgRef : F64
  sgMinValue : F64
  sgDbRange : F64
deriving DecidableEq, Repr

/-- Every configuration register at its reset value 0 (R351). -/
def ConfigRegs.zero : ConfigRegs :=
  { planN := 0, fftSrc := 0, fftDst := 0, winDst := 0, winLen := 0, winCfg := 0, melDst := 0,
    melNbins := 0, melNfilt := 0, melFmin := 0, melFmax := 0, melSr := 0, melCfg := 0,
    sgWaveAddr := 0, sgWaveLen := 0, sgFrameLen := 0, sgFftLen := 0, sgHop := 0, sgWinAddr := 0,
    sgWinLen := 0, sgMelAddr := 0, sgMelRows := 0, sgMelCols := 0, sgOutAddr := 0,
    sgMinFrames := 0, sgMaxFrames := 0, sgCfg := 0, sgPower := 0, sgPreemph := 0, sgMelFloor := 0,
    sgRef := 0, sgMinValue := 0, sgDbRange := 0 }

/-- The tables of a plan, by its kind (R50). -/
inductive PlanTables where
  /-- Kind P2: BREV and TW of R160 and R161. -/
  | p2 (brev : List Nat) (tw : List C64)
  /-- Kind BS: the inner length M, BREV_M, TW_M, the chirp W (R171) and BF (R172). -/
  | bs (m : Nat) (brevM : List Nat) (twM : List C64) (w : List C64) (bf : List C64)
deriving DecidableEq, Repr

/-- A valid plan: its length N and its tables (R50). No plan (`valid` = 0) is `none` in `State.plan`. -/
structure Plan where
  pn : Nat
  tables : PlanTables
deriving DecidableEq, Repr

/-- A bus read, or a bus write with its data (R89). -/
inductive BusKind where
  | read
  | write (data : Word)
deriving DecidableEq, Repr

/-- One host bus transaction: byte address, access size in bytes, and kind (R89). -/
structure BusTxn where
  addr : Nat
  size : Nat
  kind : BusKind
deriving DecidableEq, Repr

/-- The answer of the bus target (R89): OK with read data, OK to a write, or a bus error. -/
inductive BusResp where
  | readData (data : Word)
  | writeOk
  | busError
deriving DecidableEq, Repr

/-- What the outside world does next, in the one total order of R92. -/
inductive HostOp where
  /-- A bus transaction. -/
  | bus (t : BusTxn)
  /-- WRF (R121): read register `r`, replace the bits of `mask` by those of `value`, write it back. -/
  | rmw (r : Reg) (mask value : Word)
  /-- WAIT (R122): read STATUS until BUSY = 0. -/
  | wait
  /-- The level of `rst_n` (R89, R350). -/
  | rstN (level : Bool)
deriving DecidableEq, Repr

/-- DMEM as a list of (host byte address, byte) pairs, addresses strictly rising. A byte that is not listed
has not been written since reset and has no value (R99, R356; log entry 1). -/
abbrev Memory := List Host.Cell

/-- The whole machine. -/
structure State where
  /-- The instance's parameters (R6), which HWCFG reports (R34). Constant: log entry 2. -/
  params : Params
  /-- The level of `rst_n` (R89, R350). -/
  rstN : Bool
  /-- CTRL.IRQ_EN (R35). -/
  irqEn : Bool
  /-- STATUS (R36). -/
  status : Status
  /-- ERR_CODE (R38). -/
  errCode : ErrReg
  /-- The configuration registers (R43, R45 to R49). -/
  cfg : ConfigRegs
  /-- PLAN_CUR_N (R44). -/
  planCurN : BitVec 32
  /-- PLAN_M (R44). -/
  planM : BitVec 32
  /-- PLAN_OBUF (R44). -/
  planObuf : BitVec 32
  /-- SG_OUT_ROWS (R48, R270). -/
  sgOutRows : BitVec 32
  /-- SG_OUT_FRAMES (R48, R270). -/
  sgOutFrames : BitVec 32
  /-- SG_COMP_FRAMES (R48, R270). -/
  sgCompFrames : BitVec 32
  /-- The plan state (R50); `none` is `valid` = 0. -/
  plan : Option Plan
  /-- The word of the running command (R116); 0 while none runs (log entry 4). -/
  cmd : Word
  /-- The snapshot of the running command (R51, R116); all 0 while none runs (log entry 4). -/
  snap : ConfigRegs
  /-- The model's own: how many more host operations may be served before the running command completes
  (R315, R370; log entry 5); 0 while none runs. -/
  latency : Nat
  /-- DMEM (R52, R81). -/
  mem : Memory
  /-- The DMEM window access that is held while BUSY = 1 (R88). -/
  held : Option BusTxn
  /-- The host's operations still to come, first one first (R30, R92). -/
  host : List HostOp
  /-- The bus target's answer to the last transaction it answered (R89); `none` before the first. -/
  resp : Option BusResp
  /-- The model's own: how many free values have been drawn (R14, R370; log entries 5 and 6). -/
  draws : Nat
deriving DecidableEq, Repr

/-- The machine right after reset, for an instance with parameters `p` (R351). Nothing is pending and no
free value has been drawn. -/
def State.resetOf (p : Params) : State :=
  { params := p, rstN := true, irqEn := false,
    status := { busy := false, done := false, err := false, cmdOverrun := false,
                planValid := false, planBs := false },
    errCode := { code := 0, opcode := 0 },
    cfg := ConfigRegs.zero, planCurN := 0, planM := 0, planObuf := 0,
    sgOutRows := 0, sgOutFrames := 0, sgCompFrames := 0,
    plan := none, cmd := 0, snap := ConfigRegs.zero, latency := 0,
    mem := [], held := none, host := [], resp := none, draws := 0 }

/-- The machine right after reset, with R6's default parameters (log entry 2). -/
def State.reset : State := State.resetOf Params.default

end Sys2Proof.Machine
end

