-- ==== Sys2Proof/Machine/Flags.lean ====
section
/-! DEFINITION. The flags: STATUS, ERR_CODE and irq (spec/10_state.md rules R36, R38, R41, R42, R53, R54;
spec/30_encoding.md R115 to R117; spec/60_exceptions.md R311, R312, R320). -/

namespace Sys2Proof.Machine

/-! ## Error codes -/

/-- The errors a command can raise (R311). -/
inductive Err where
  | illegalCmd | noPlan | invalidLength | capacity | range | aliasing
  | unknownWindow
  | invalidNorm | invalidMelScale | melDims
  | frameLen | windowLen | hop | complexMel | notImplemented | planMismatch | melMismatch
  | logMelCode | dbPower | dbParam
deriving DecidableEq, Repr

/-- R311's numbering. -/
def errNumber : Err → BitVec 8
  | .illegalCmd => 0x01
  | .noPlan => 0x02
  | .invalidLength => 0x03
  | .capacity => 0x04
  | .range => 0x05
  | .aliasing => 0x06
  | .unknownWindow => 0x10
  | .invalidNorm => 0x20
  | .invalidMelScale => 0x21
  | .melDims => 0x22
  | .frameLen => 0x30
  | .windowLen => 0x31
  | .hop => 0x32
  | .complexMel => 0x33
  | .notImplemented => 0x34
  | .planMismatch => 0x35
  | .melMismatch => 0x36
  | .logMelCode => 0x37
  | .dbPower => 0x38
  | .dbParam => 0x39

/-- The first error of a rule's list whose condition holds (R313). -/
def firstError : List (Bool × Err) → Option Err
  | [] => none
  | (c, e) :: rest => if c then some e else firstError rest

/-- ERR_CODE cleared, as acceptance leaves it (R116). -/
def errNone : ErrReg := { code := 0, opcode := 0 }

/-- ERR_CODE as a 64-bit register value: CODE in bits 7:0, OPCODE in bits 15:8, the rest 0 (R38). -/
def errWord (e : ErrReg) : Word := (0 : BitVec 48) ++ e.opcode ++ e.code

/-! ## STATUS -/

/-- STATUS as a 64-bit register value; bits 63:6 read 0 (R36). -/
def statusWord (f : Status) : Word :=
  (0 : BitVec 58) ++ BitVec.ofBool f.planBs ++ BitVec.ofBool f.planValid
    ++ BitVec.ofBool f.cmdOverrun ++ BitVec.ofBool f.err ++ BitVec.ofBool f.done
    ++ BitVec.ofBool f.busy

/-- Acceptance: BUSY set, DONE and ERR cleared (R116). -/
def statusAccept (f : Status) : Status := { f with busy := true, done := false, err := false }

/-- Successful completion: BUSY cleared, DONE set; ERR keeps the 0 of acceptance (R117). -/
def statusComplete (f : Status) : Status := { f with busy := false, done := true }

/-- Failed completion: ERR set, BUSY cleared, DONE set (R312). -/
def statusFail (f : Status) : Status := { f with busy := false, done := true, err := true }

/-- A CMD write while BUSY = 1 sets CMD_OVERRUN (R115). -/
def statusOverrun (f : Status) : Status := { f with cmdOverrun := true }

/-- A host write of `w`: a 1 in bit 1, 2 or 3 clears DONE, ERR or CMD_OVERRUN; the other bits ignore the
write (R42). -/
def statusWrite (w : Word) (f : Status) : Status :=
  { f with
    done := f.done && !(w.getLsbD 1)
    err := f.err && !(w.getLsbD 2)
    cmdOverrun := f.cmdOverrun && !(w.getLsbD 3) }

/-- The plan bits after a successful PLAN (R141). -/
def statusPlan (bs : Bool) (f : Status) : Status := { f with planValid := true, planBs := bs }

/-- A command abandoned by reset: BUSY falls and nothing else changes, so no DONE (R350). -/
def statusAbandon (f : Status) : Status := { f with busy := false }

/-- The output signal irq = CTRL.IRQ_EN AND STATUS.DONE (R53, R320). -/
def irq (s : State) : Bool := s.irqEn && s.status.done

end Sys2Proof.Machine
end

