-- ==== Sys2Proof/Machine/Ops.lean ====
section
/-! DEFINITION. The named operations over DMEM (spec/20_memory.md rules R80 to R83, R99), the acceptance and
the two completions of a command (spec/30_encoding.md R116, R117; spec/60_exceptions.md R312), and the
writes a command makes (R119 phase 3). Raising an error is the block's only exception entry (R322). There
is no return from one: after a completion the engine is idle and takes the next CMD write (R323). -/

namespace Sys2Proof.Machine

/-! ## DMEM, byte by byte -/

/-- DMEM_BASE, the host byte address of DMEM word 0 (R80). -/
def dmemBase : Nat := 0x00100000

/-- How many words DMEM holds (R81). -/
def dmemWords (p : Params) : Nat := 2 ^ p.dmemAw

/-- The host byte address of byte `i` of DMEM word `w` (R80). -/
def byteAddr (w i : Nat) : Nat := dmemBase + 8 * w + i

/-- The canonical form: addresses strictly rising. An unlisted byte has no value, so no listed byte can equal
what an unlisted one reads as. -/
abbrev Memory.wf (m : Memory) : Prop := m.Pairwise (fun c d => c.1 < d.1)

/-- The byte at a host byte address; `none` when nothing has written it since reset (R99). -/
def Memory.readByte : Memory → Nat → Option Byte
  | [], _ => none
  | c :: cs, a => if c.1 = a then some c.2 else Memory.readByte cs a

/-- Writing one byte, in its place in the canonical form. -/
def Memory.writeByte : Memory → Nat → Byte → Memory
  | [], a, b => [(a, b)]
  | c :: cs, a, b =>
    if a < c.1 then (a, b) :: c :: cs
    else if a = c.1 then (a, b) :: cs
    else c :: Memory.writeByte cs a b

/-- The bytes at addresses a, a+1, ..., lowest first; `none` when one of them has not been written. -/
def Memory.readBytes (m : Memory) (a : Nat) : Nat → Option (List Byte)
  | 0 => some []
  | n + 1 =>
    match m.readByte a, Memory.readBytes m (a + 1) n with
    | some b, some bs => some (b :: bs)
    | _, _ => none

/-- Writing bytes to addresses a, a+1, ..., lowest first. -/
def Memory.writeBytes (m : Memory) (a : Nat) : List Byte → Memory
  | [] => m
  | b :: bs => Memory.writeBytes (m.writeByte a b) (a + 1) bs

/-! ## DMEM, word by word (R81, R82) -/

/-- DMEM word `w`. -/
def Memory.readWord (m : Memory) (w : Nat) : Option Word :=
  (m.readBytes (byteAddr w 0) 8).map wordOfBytes

/-- Writing DMEM word `w`. -/
def Memory.writeWord (m : Memory) (w : Nat) (v : Word) : Memory :=
  m.writeBytes (byteAddr w 0) (wordBytes v)

/-- `MemRead(a, n)` (R18): words a..a+n-1; `none` when one of them has not been written (R99). -/
def memRead (m : Memory) (a : Nat) : Nat → Option (List F64)
  | 0 => some []
  | n + 1 =>
    match m.readWord a, memRead m (a + 1) n with
    | some v, some vs => some (v :: vs)
    | _, _ => none

/-- `MemWrite(a, n, v)` (R18): the words of `vs` to a, a+1, .... -/
def memWrite (m : Memory) (a : Nat) : List F64 → Memory
  | [] => m
  | v :: vs => memWrite (m.writeWord a v) (a + 1) vs

/-- The complex values of interleaved (real, imaginary) words (R83). -/
def toComplex : List F64 → List C64
  | re :: im :: vs => ⟨re, im⟩ :: toComplex vs
  | _ => []

/-- The interleaved words of complex values (R83). -/
def ofComplex : List C64 → List F64
  | [] => []
  | c :: cs => c.re :: c.im :: ofComplex cs

/-- `CRead(a, n)` (R18). -/
def cRead (m : Memory) (a n : Nat) : Option (List C64) := (memRead m a (2 * n)).map toComplex

/-! ## A command's life -/

/-- The snapshot and the command word are discarded at completion (R51; log entry 4). -/
def State.discard (s : State) : State := { s with cmd := 0, snap := ConfigRegs.zero, latency := 0 }

/-- Acceptance of the word `w` (R116), with the number of host operations that will be ordered before its
completion (log entry 5). -/
def State.accept (w : Word) (latency : Nat) (s : State) : State :=
  { s with status := statusAccept s.status, errCode := errNone, snap := s.cfg, cmd := w,
           latency := latency }

/-- Successful completion (R117). -/
def State.complete (s : State) : State := { s.discard with status := statusComplete s.status }

/-- `raise E`: failed completion (R19, R312). ERR_CODE takes the error's code and the low byte of the running
command word, STATUS shows DONE and ERR, and nothing else the block holds changes. -/
def State.fail (e : Err) (s : State) : State :=
  { s.discard with
    status := statusFail s.status
    errCode := { code := errNumber e, opcode := s.cmd.extractLsb' 0 8 } }

/-- Reset abandons the running command (R350): it never completes and sets no DONE. -/
def State.abandon (s : State) : State := { s.discard with status := statusAbandon s.status }

/-! ## The writes of phase 3 (R119) -/

/-- The engine's write of the results `vs` to DMEM words a, a+1, ...; each NaN among them takes the bits of a
draw of its own (R14). -/
def State.engineWrite (a : Nat) (vs : List F64) (s : State) : State :=
  { s with mem := memWrite s.mem a (settleNaNs s.draws vs), draws := s.draws + vs.length }

/-- The result registers of SPECTROGRAM (R270). -/
def State.setShape (rows frames comp : Nat) (s : State) : State :=
  { s with sgOutRows := BitVec.ofNat 32 rows, sgOutFrames := BitVec.ofNat 32 frames,
           sgCompFrames := BitVec.ofNat 32 comp }

/-- Is the plan a Bluestein plan (R36, R50)? -/
def Plan.isBs (p : Plan) : Bool :=
  match p.tables with
  | .p2 _ _ => false
  | .bs _ _ _ _ _ => true

/-- PLAN_M: the inner length M of a Bluestein plan, 0 for a power-of-two plan (R44). -/
def Plan.innerLen (p : Plan) : Nat :=
  match p.tables with
  | .p2 _ _ => 0
  | .bs m _ _ _ _ => m

/-- PLAN_OBUF: 2N for a power-of-two plan, 2M for a Bluestein plan (R44). -/
def Plan.obuf (p : Plan) : Nat :=
  match p.tables with
  | .p2 _ _ => 2 * p.pn
  | .bs m _ _ _ _ => 2 * m

/-- `plan <- new` and the registers that show it (R141). -/
def State.installPlan (p : Plan) (s : State) : State :=
  { s with plan := some p, planCurN := BitVec.ofNat 32 p.pn, planM := BitVec.ofNat 32 p.innerLen,
           planObuf := BitVec.ofNat 32 p.obuf, status := statusPlan p.isBs s.status }

end Sys2Proof.Machine
end

