-- ==== Sys2Proof/Machine/Registers.lean ====
section
/-! DEFINITION. The register block (spec/10_state.md rules R32 to R49): offsets, access kinds, the value a read
returns and the effect of a write. Every host read and write of a register goes through these. -/

namespace Sys2Proof.Machine

/-- R32's offsets. -/
def regOffset : Reg → Nat
  | .ID => 0x000
  | .HWCFG => 0x008
  | .CTRL => 0x010
  | .STATUS => 0x018
  | .CMD => 0x020
  | .ERR_CODE => 0x028
  | .PLAN_N => 0x040
  | .PLAN_CUR_N => 0x048
  | .PLAN_M => 0x050
  | .PLAN_OBUF => 0x058
  | .FFT_SRC => 0x080
  | .FFT_DST => 0x088
  | .WIN_DST => 0x0C0
  | .WIN_LEN => 0x0C8
  | .WIN_CFG => 0x0D0
  | .MEL_DST => 0x100
  | .MEL_NBINS => 0x108
  | .MEL_NFILT => 0x110
  | .MEL_FMIN => 0x118
  | .MEL_FMAX => 0x120
  | .MEL_SR => 0x128
  | .MEL_CFG => 0x130
  | .SG_WAVE_ADDR => 0x180
  | .SG_WAVE_LEN => 0x188
  | .SG_FRAME_LEN => 0x190
  | .SG_FFT_LEN => 0x198
  | .SG_HOP => 0x1A0
  | .SG_WIN_ADDR => 0x1A8
  | .SG_WIN_LEN => 0x1B0
  | .SG_MEL_ADDR => 0x1B8
  | .SG_MEL_ROWS => 0x1C0
  | .SG_MEL_COLS => 0x1C8
  | .SG_OUT_ADDR => 0x1D0
  | .SG_MIN_FRAMES => 0x1D8
  | .SG_MAX_FRAMES => 0x1E0
  | .SG_CFG => 0x1E8
  | .SG_POWER => 0x1F0
  | .SG_PREEMPH => 0x1F8
  | .SG_MEL_FLOOR => 0x200
  | .SG_REF => 0x208
  | .SG_MIN_VALUE => 0x210
  | .SG_DB_RANGE => 0x218
  | .SG_OUT_ROWS => 0x240
  | .SG_OUT_FRAMES => 0x248
  | .SG_COMP_FRAMES => 0x250

/-- Every register of R32, in the order of its table. -/
def allRegs : List Reg :=
  ([.ID, .HWCFG, .CTRL, .STATUS, .CMD, .ERR_CODE, .PLAN_N, .PLAN_CUR_N, .PLAN_M, .PLAN_OBUF] : List Reg)
    ++ ([.FFT_SRC, .FFT_DST, .WIN_DST, .WIN_LEN, .WIN_CFG, .MEL_DST, .MEL_NBINS, .MEL_NFILT] : List Reg)
    ++ ([.MEL_FMIN, .MEL_FMAX, .MEL_SR, .MEL_CFG, .SG_WAVE_ADDR, .SG_WAVE_LEN, .SG_FRAME_LEN] : List Reg)
    ++ ([.SG_FFT_LEN, .SG_HOP, .SG_WIN_ADDR, .SG_WIN_LEN, .SG_MEL_ADDR, .SG_MEL_ROWS, .SG_MEL_COLS] : List Reg)
    ++ ([.SG_OUT_ADDR, .SG_MIN_FRAMES, .SG_MAX_FRAMES, .SG_CFG, .SG_POWER, .SG_PREEMPH] : List Reg)
    ++ ([.SG_MEL_FLOOR, .SG_REF, .SG_MIN_VALUE, .SG_DB_RANGE, .SG_OUT_ROWS, .SG_OUT_FRAMES] : List Reg)
    ++ ([.SG_COMP_FRAMES] : List Reg)

/-- The register at a byte offset, if R32 lists one there. -/
def regAt (off : Nat) : Option Reg := allRegs.find? (fun r => regOffset r == off)

/-- ID's constant value (R33). -/
def idValue : Word := 0x0000000753544646#64

/-- HWCFG: DMEM_AW in bits 7:0, PLAN_MAX_LOG2 in bits 15:8 (R34). -/
def hwcfgValue (p : Params) : Word :=
  (0 : BitVec 48) ++ BitVec.ofNat 8 p.planMaxLog2 ++ BitVec.ofNat 8 p.dmemAw

/-- A register read (R32 to R49). CMD is write-only and reads 0 (R37). A read has no side effect (R87). -/
def readReg (s : State) : Reg → Word
  | .ID => idValue
  | .HWCFG => hwcfgValue s.params
  | .CTRL => (BitVec.ofBool s.irqEn).setWidth 64
  | .STATUS => statusWord s.status
  | .CMD => 0
  | .ERR_CODE => errWord s.errCode
  | .PLAN_N => s.cfg.planN.setWidth 64
  | .PLAN_CUR_N => s.planCurN.setWidth 64
  | .PLAN_M => s.planM.setWidth 64
  | .PLAN_OBUF => s.planObuf.setWidth 64
  | .FFT_SRC => s.cfg.fftSrc.setWidth 64
  | .FFT_DST => s.cfg.fftDst.setWidth 64
  | .WIN_DST => s.cfg.winDst.setWidth 64
  | .WIN_LEN => s.cfg.winLen.setWidth 64
  | .WIN_CFG => s.cfg.winCfg.setWidth 64
  | .MEL_DST => s.cfg.melDst.setWidth 64
  | .MEL_NBINS => s.cfg.melNbins.setWidth 64
  | .MEL_NFILT => s.cfg.melNfilt.setWidth 64
  | .MEL_FMIN => s.cfg.melFmin
  | .MEL_FMAX => s.cfg.melFmax
  | .MEL_SR => s.cfg.melSr
  | .MEL_CFG => s.cfg.melCfg.setWidth 64
  | .SG_WAVE_ADDR => s.cfg.sgWaveAddr.setWidth 64
  | .SG_WAVE_LEN => s.cfg.sgWaveLen.setWidth 64
  | .SG_FRAME_LEN => s.cfg.sgFrameLen.setWidth 64
  | .SG_FFT_LEN => s.cfg.sgFftLen.setWidth 64
  | .SG_HOP => s.cfg.sgHop.setWidth 64
  | .SG_WIN_ADDR => s.cfg.sgWinAddr.setWidth 64
  | .SG_WIN_LEN => s.cfg.sgWinLen.setWidth 64
  | .SG_MEL_ADDR => s.cfg.sgMelAddr.setWidth 64
  | .SG_MEL_ROWS => s.cfg.sgMelRows.setWidth 64
  | .SG_MEL_COLS => s.cfg.sgMelCols.setWidth 64
  | .SG_OUT_ADDR => s.cfg.sgOutAddr.setWidth 64
  | .SG_MIN_FRAMES => s.cfg.sgMinFrames.setWidth 64
  | .SG_MAX_FRAMES => s.cfg.sgMaxFrames.setWidth 64
  | .SG_CFG => s.cfg.sgCfg.setWidth 64
  | .SG_POWER => s.cfg.sgPower
  | .SG_PREEMPH => s.cfg.sgPreemph
  | .SG_MEL_FLOOR => s.cfg.sgMelFloor
  | .SG_REF => s.cfg.sgRef
  | .SG_MIN_VALUE => s.cfg.sgMinValue
  | .SG_DB_RANGE => s.cfg.sgDbRange
  | .SG_OUT_ROWS => s.sgOutRows.setWidth 64
  | .SG_OUT_FRAMES => s.sgOutFrames.setWidth 64
  | .SG_COMP_FRAMES => s.sgCompFrames.setWidth 64

/-- A write of `w` to a configuration register: the bits that are not reserved are stored (R32, R39, R40,
R46, R47, R49); any other register is not one and nothing is stored. -/
def writeCfg (w : Word) (c : ConfigRegs) : Reg → ConfigRegs
  | .PLAN_N => { c with planN := w.setWidth 32 }
  | .FFT_SRC => { c with fftSrc := w.setWidth 32 }
  | .FFT_DST => { c with fftDst := w.setWidth 32 }
  | .WIN_DST => { c with winDst := w.setWidth 32 }
  | .WIN_LEN => { c with winLen := w.setWidth 32 }
  | .WIN_CFG => { c with winCfg := w.setWidth 5 }
  | .MEL_DST => { c with melDst := w.setWidth 32 }
  | .MEL_NBINS => { c with melNbins := w.setWidth 32 }
  | .MEL_NFILT => { c with melNfilt := w.setWidth 32 }
  | .MEL_FMIN => { c with melFmin := w }
  | .MEL_FMAX => { c with melFmax := w }
  | .MEL_SR => { c with melSr := w }
  | .MEL_CFG => { c with melCfg := w.setWidth 9 }
  | .SG_WAVE_ADDR => { c with sgWaveAddr := w.setWidth 32 }
  | .SG_WAVE_LEN => { c with sgWaveLen := w.setWidth 32 }
  | .SG_FRAME_LEN => { c with sgFrameLen := w.setWidth 32 }
  | .SG_FFT_LEN => { c with sgFftLen := w.setWidth 32 }
  | .SG_HOP => { c with sgHop := w.setWidth 32 }
  | .SG_WIN_ADDR => { c with sgWinAddr := w.setWidth 32 }
  | .SG_WIN_LEN => { c with sgWinLen := w.setWidth 32 }
  | .SG_MEL_ADDR => { c with sgMelAddr := w.setWidth 32 }
  | .SG_MEL_ROWS => { c with sgMelRows := w.setWidth 32 }
  | .SG_MEL_COLS => { c with sgMelCols := w.setWidth 32 }
  | .SG_OUT_ADDR => { c with sgOutAddr := w.setWidth 32 }
  | .SG_MIN_FRAMES => { c with sgMinFrames := w.setWidth 32 }
  | .SG_MAX_FRAMES => { c with sgMaxFrames := w.setWidth 32 }
  | .SG_CFG => { c with sgCfg := w.setWidth 17 }
  | .SG_POWER => { c with sgPower := w }
  | .SG_PREEMPH => { c with sgPreemph := w }
  | .SG_MEL_FLOOR => { c with sgMelFloor := w }
  | .SG_REF => { c with sgRef := w }
  | .SG_MIN_VALUE => { c with sgMinValue := w }
  | .SG_DB_RANGE => { c with sgDbRange := w }
  | .ID => c
  | .HWCFG => c
  | .CTRL => c
  | .STATUS => c
  | .CMD => c
  | .ERR_CODE => c
  | .PLAN_CUR_N => c
  | .PLAN_M => c
  | .PLAN_OBUF => c
  | .SG_OUT_ROWS => c
  | .SG_OUT_FRAMES => c
  | .SG_COMP_FRAMES => c

/-- A write of a command word to CMD: rejected while BUSY = 1, setting CMD_OVERRUN (R115), else accepted
(R116) with a latency of its own (R370, log entry 5). -/
def writeCmd (w : Word) (s : State) : State :=
  if s.status.busy then { s with status := statusOverrun s.status }
  else { s.accept w (Config.freeLatency s.draws) with draws := s.draws + 1 }

/-- A register write (R32 to R49): CTRL (R35), STATUS (R42) and CMD (R115, R116) have effects of their own, a
configuration register stores, and a read-only register ignores it. -/
def writeReg (r : Reg) (w : Word) (s : State) : State :=
  match r with
  | .CTRL => { s with irqEn := w.getLsbD 0 }
  | .STATUS => { s with status := statusWrite w s.status }
  | .CMD => writeCmd w s
  | other => { s with cfg := writeCfg w s.cfg other }

/-! ## Named fields (R33 to R38, R46, R47, R49) -/

/-- The register, lowest bit and width of a named field. -/
def fieldBits : Field → Reg × Nat × Nat
  | .ID_MAGIC => (.ID, 0, 32)
  | .ID_REV => (.ID, 32, 16)
  | .HWCFG_DMEM_AW => (.HWCFG, 0, 8)
  | .HWCFG_PLAN_MAX_LOG2 => (.HWCFG, 8, 8)
  | .CTRL_IRQ_EN => (.CTRL, 0, 1)
  | .STATUS_BUSY => (.STATUS, 0, 1)
  | .STATUS_DONE => (.STATUS, 1, 1)
  | .STATUS_ERR => (.STATUS, 2, 1)
  | .STATUS_CMD_OVERRUN => (.STATUS, 3, 1)
  | .STATUS_PLAN_VALID => (.STATUS, 4, 1)
  | .STATUS_PLAN_BS => (.STATUS, 5, 1)
  | .ERR_CODE_CODE => (.ERR_CODE, 0, 8)
  | .ERR_CODE_OPCODE => (.ERR_CODE, 8, 8)
  | .WIN_CFG_KIND => (.WIN_CFG, 0, 4)
  | .WIN_CFG_PERIODIC => (.WIN_CFG, 4, 1)
  | .MEL_CFG_NORM => (.MEL_CFG, 0, 4)
  | .MEL_CFG_SCALE => (.MEL_CFG, 4, 4)
  | .MEL_CFG_TRI_MEL => (.MEL_CFG, 8, 1)
  | .SG_CFG_CENTER => (.SG_CFG, 0, 1)
  | .SG_CFG_PAD_MODE => (.SG_CFG, 1, 3)
  | .SG_CFG_ONESIDED => (.SG_CFG, 4, 1)
  | .SG_CFG_POWER_EN => (.SG_CFG, 5, 1)
  | .SG_CFG_PREEMPH_EN => (.SG_CFG, 6, 1)
  | .SG_CFG_REMOVE_DC => (.SG_CFG, 7, 1)
  | .SG_CFG_MEL_EN => (.SG_CFG, 8, 1)
  | .SG_CFG_LOG_MEL => (.SG_CFG, 9, 3)
  | .SG_CFG_DB_RANGE_EN => (.SG_CFG, 12, 1)
  | .SG_CFG_MIN_FRAMES_EN => (.SG_CFG, 13, 1)
  | .SG_CFG_MAX_FRAMES_EN => (.SG_CFG, 14, 1)
  | .SG_CFG_DO_PAD => (.SG_CFG, 15, 1)
  | .SG_CFG_TRANSPOSE => (.SG_CFG, 16, 1)

/-- The bits of a field inside its register. -/
def fieldMask (f : Field) : Word :=
  BitVec.ofNat 64 ((2 ^ (fieldBits f).2.2 - 1) * 2 ^ (fieldBits f).2.1)

/-- A field's value, placed at the field's bits; bits that do not fit are dropped. -/
def fieldValue (f : Field) (v : Nat) : Word :=
  BitVec.ofNat 64 ((v % 2 ^ (fieldBits f).2.2) * 2 ^ (fieldBits f).2.1)

/-- The field of a register value. -/
def fieldOf (f : Field) (w : Word) : Nat :=
  w.toNat / 2 ^ (fieldBits f).2.1 % 2 ^ (fieldBits f).2.2

end Sys2Proof.Machine
end

