-- ==== Sys2Proof/Machine/Bus.lean ====
section
/-! DEFINITION. The host bus target (spec/20_memory.md rules R80, R84 to R88), reset (spec/70_reset_and_hazards.md
R350 to R356) and the host's turn of the machine: one pending host operation served. -/

namespace Sys2Proof.Machine

/-! ## One bus transaction (R80, R84 to R87) -/

/-- A host byte address of the register block (R80). -/
def inRegBlock (a : Nat) : Bool := decide (a ≤ 0xFFF)

/-- A host byte address of the DMEM window (R80). -/
def inDmemWindow (p : Params) (a : Nat) : Bool :=
  decide (dmemBase ≤ a) && decide (a < dmemBase + 8 * dmemWords p)

/-- The transaction is a 64-bit access at an 8-byte-aligned address (R84, R86). -/
def wholeWord (t : BusTxn) : Bool := t.size == 8 && t.addr % 8 == 0

/-- The DMEM word a window address names (R80). -/
def windowWord (a : Nat) : Nat := (a - dmemBase) / 8

/-- The target's answer, on the bus. -/
def State.respond (r : BusResp) (s : State) : State := { s with resp := some r }

/-- An access to the register block: a bus error unless it is a whole aligned word (R84); an offset that names
no register reads 0 and ignores writes (R85). -/
def regAccess (t : BusTxn) (s : State) : State :=
  if wholeWord t then
    match t.kind, regAt t.addr with
    | .read, some r => s.respond (.readData (readReg s r))
    | .read, none => s.respond (.readData 0)
    | .write w, some r => (writeReg r w s).respond .writeOk
    | .write _, none => s.respond .writeOk
  else s.respond .busError

/-- An access to the DMEM window: a bus error unless it is a whole aligned word (R86); a read of a word that
nothing has written since reset faults (R99). -/
def dmemAccess (t : BusTxn) (s : State) : Host.Outcome State Fault Refusal :=
  if wholeWord t then
    match t.kind with
    | .read =>
      match s.mem.readWord (windowWord t.addr) with
      | some w => .next (s.respond (.readData w))
      | none => .fault .unwrittenRead
    | .write w => .next ({ s with mem := s.mem.writeWord (windowWord t.addr) w }.respond .writeOk)
  else .next (s.respond .busError)

/-- One transaction, performed at once: the region it decodes to, or a bus error (R85). -/
def busAccess (t : BusTxn) (s : State) : Host.Outcome State Fault Refusal :=
  if inRegBlock t.addr then .next (regAccess t s)
  else if inDmemWindow s.params t.addr then dmemAccess t s
  else .next (s.respond .busError)

/-- A transaction as the target takes it: an access to the DMEM window is held while BUSY = 1; every other
one is performed at once (R88). -/
def busIssue (t : BusTxn) (s : State) : Host.Outcome State Fault Refusal :=
  if s.status.busy && inDmemWindow s.params t.addr then .next { s with held := some t }
  else busAccess t s

/-! ## Reset (R350 to R356) -/

/-- `rst_n` falls: a running command is abandoned and a held access is answered with a bus error (R350). -/
def resetFall (s : State) : State :=
  { s.abandon with
    rstN := false
    held := none
    resp := if s.held.isSome then some .busError else s.resp }

/-- `rst_n` returns to 1: every state element holds R351's value and DMEM is unspecified (R356); the host's
pending operations, the bus answer and the draw counter are not the block's and stay. -/
def resetRise (s : State) : State :=
  { State.resetOf s.params with host := s.host, resp := s.resp, draws := s.draws }

/-- A change of the level of `rst_n`; no change has no effect. -/
def setRstN (level : Bool) (s : State) : State :=
  if level = s.rstN then s else if level then resetRise s else resetFall s

/-! ## The host's turn -/

/-- One host operation taken off the queue `rest` while `rst_n` = 0: no access is answered but with a bus error
(R350). -/
def serveInReset (op : HostOp) (s : State) : State :=
  match op with
  | .rstN level => setRstN level s
  | .bus _ => s.respond .busError
  | .rmw _ _ _ => s.respond .busError
  | .wait => s.respond .busError

/-- The first transaction of WRF: the register's value is read, and the write of the replaced field is what
the host does next (R121). -/
def serveRmw (r : Reg) (mask value : Word) (s : State) : State :=
  let old := readReg s r
  { s.respond (.readData old) with
    host := .bus { addr := regOffset r, size := 8,
                   kind := .write ((old &&& ~~~mask) ||| (value &&& mask)) } :: s.host }

/-- One round of WAIT: STATUS is read, and the host waits on while BUSY = 1 (R122). -/
def serveWait (s : State) : State :=
  let s' := s.respond (.readData (readReg s .STATUS))
  if s.status.busy then { s' with host := .wait :: s.host } else s'

/-- One host operation, already taken off the queue, outside reset. -/
def serve (op : HostOp) (s : State) : Host.Outcome State Fault Refusal :=
  match op with
  | .bus t => busIssue t s
  | .rmw r mask value => .next (serveRmw r mask value s)
  | .wait => .next (serveWait s)
  | .rstN level => .next (setRstN level s)

/-- The host's turn: in reset, the next operation is answered as R350 says; otherwise a held access whose
command has completed is performed (R88); otherwise the next operation is served, and it counts against the
latency of a running command (log entry 5). With nothing to do the block keeps its state (R335). -/
def hostStep (s : State) : Host.Outcome State Fault Refusal :=
  match s.rstN, s.status.busy, s.held, s.host with
  | false, _, _, [] => .next s
  | false, _, _, op :: rest => .next (serveInReset op { s with host := rest })
  | true, false, some t, _ => busAccess t { s with held := none }
  | true, _, _, [] => .next s
  | true, _, _, op :: rest => serve op { s with host := rest, latency := s.latency - 1 }

/-! ## Whose turn it is (R30, R315) -/

/-- The two agents of R30. -/
inductive Agent where
  | host
  | engine
deriving DecidableEq, Repr

/-- Can the host have an operation served while a command runs? A host whose access is held issues no other
(R92), but reset is no access. -/
def hostMoves (s : State) : Bool :=
  match s.held, s.host with
  | _, [] => false
  | _, .rstN _ :: _ => true
  | none, _ :: _ => true
  | some _, _ :: _ => false

/-- The engine completes the running command when its latency is used up or the host can only wait for it;
otherwise it is the host's turn (R315: either order is possible; log entry 5). -/
def turn (s : State) : Agent :=
  if s.rstN && s.status.busy && (s.latency == 0 || !(hostMoves s)) then .engine else .host

end Sys2Proof.Machine
end

