-- ==== Sys2Proof/Machine/Control.lean ====
section
/-! DEFINITION. The control command NOP (spec/44_control.md). The block has no other control, load, store,
system or vector command (R301 to R305). -/

namespace Sys2Proof.Machine

/-- NOP: no checks, no computation, no writes; it completes (R300). -/
def execNop (s : State) : Host.Outcome State Fault Refusal := .next s.complete

end Sys2Proof.Machine
end

