-- ==== Sys2Proof/Machine/Operands.lean ====
section
/-! DEFINITION. The operands: what each command reads from its snapshot (spec/30_encoding.md rule R113,
spec/10_state.md R39, R40, R45 to R49), and the buffer checks (spec/20_memory.md R90, R91). -/

namespace Sys2Proof.Machine

/-! ## Fields of the configuration registers -/

/-- WIN_CFG.KIND, bits 3:0 (R46). -/
def winKind (c : ConfigRegs) : Nat := (c.winCfg.extractLsb' 0 4).toNat
/-- WIN_CFG.PERIODIC, bit 4 (R46). -/
def winPeriodic (c : ConfigRegs) : Bool := c.winCfg.getLsbD 4
/-- MEL_CFG.NORM, bits 3:0 (R47). -/
def melNorm (c : ConfigRegs) : Nat := (c.melCfg.extractLsb' 0 4).toNat
/-- MEL_CFG.SCALE, bits 7:4 (R47). -/
def melScale (c : ConfigRegs) : Nat := (c.melCfg.extractLsb' 4 4).toNat
/-- MEL_CFG.TRI_MEL, bit 8 (R47). -/
def melTriMel (c : ConfigRegs) : Bool := c.melCfg.getLsbD 8

/-- The operands of SPECTROGRAM under the names of 43_spectrogram.md. -/
structure SgOps where
  wa : Nat
  len : Nat
  fl : Nat
  nfft : Nat
  hop : Nat
  wina : Nat
  winl : Nat
  mela : Nat
  mr : Nat
  mc : Nat
  out : Nat
  minf : Nat
  maxf : Nat
  pw : F64
  pre : F64
  flo : F64
  ref : F64
  minv : F64
  dbr : F64
  center : Bool
  padMode : Nat
  onesided : Bool
  powerEn : Bool
  preemphEn : Bool
  removeDc : Bool
  melEn : Bool
  logMel : Nat
  dbRangeEn : Bool
  minFramesEn : Bool
  maxFramesEn : Bool
  doPad : Bool
  transpose : Bool
deriving DecidableEq, Repr

/-- SPECTROGRAM's operands from the snapshot (R48 to R50, R113, R250): u32 registers zero-extended, f64
registers unchanged, SG_CFG's fields as R49 lays them out. -/
def sgOps (c : ConfigRegs) : SgOps :=
  { wa := c.sgWaveAddr.toNat, len := c.sgWaveLen.toNat, fl := c.sgFrameLen.toNat,
    nfft := c.sgFftLen.toNat, hop := c.sgHop.toNat, wina := c.sgWinAddr.toNat,
    winl := c.sgWinLen.toNat, mela := c.sgMelAddr.toNat, mr := c.sgMelRows.toNat,
    mc := c.sgMelCols.toNat, out := c.sgOutAddr.toNat, minf := c.sgMinFrames.toNat,
    maxf := c.sgMaxFrames.toNat, pw := c.sgPower, pre := c.sgPreemph, flo := c.sgMelFloor,
    ref := c.sgRef, minv := c.sgMinValue, dbr := c.sgDbRange,
    center := c.sgCfg.getLsbD 0, padMode := (c.sgCfg.extractLsb' 1 3).toNat,
    onesided := c.sgCfg.getLsbD 4, powerEn := c.sgCfg.getLsbD 5, preemphEn := c.sgCfg.getLsbD 6,
    removeDc := c.sgCfg.getLsbD 7, melEn := c.sgCfg.getLsbD 8,
    logMel := (c.sgCfg.extractLsb' 9 3).toNat, dbRangeEn := c.sgCfg.getLsbD 12,
    minFramesEn := c.sgCfg.getLsbD 13, maxFramesEn := c.sgCfg.getLsbD 14,
    doPad := c.sgCfg.getLsbD 15, transpose := c.sgCfg.getLsbD 16 }

/-! ## Buffer intervals -/

/-- The half-open word interval [start, start + len) (R90). -/
structure Interval where
  start : Nat
  len : Nat
deriving DecidableEq, Repr

/-- The interval is not empty and leaves DMEM: start + len > 2^DMEM_AW (R90). -/
def outOfRange (p : Params) (i : Interval) : Bool :=
  i.len != 0 && decide (dmemWords p < i.start + i.len)

/-- The two intervals share a word: both non-empty and overlapping (R91). -/
def overlaps (i j : Interval) : Bool :=
  i.len != 0 && j.len != 0 && decide (i.start < j.start + j.len) && decide (j.start < i.start + i.len)

/-- The E_RANGE check of R90 over a command's intervals. -/
def anyOutOfRange (p : Params) (is : List Interval) : Bool := is.any (outOfRange p)

/-- The E_ALIAS check of R91: the write interval against every read interval. -/
def anyAlias (reads : List Interval) (write : Interval) : Bool := reads.any (overlaps write)

end Sys2Proof.Machine
end

