-- ==== Sys2Proof/Machine/Trans.lean ====
section
/-! DEFINITION. The transcendental functions F_* (spec/00_scope.md rules R6, R13): a free function each, inside
the special values and bounds of R13 and nothing more. Every conforming parameter is one of these, and every
one of these conforms (log entry 3). An operand or result that is NaN is the one NaN value (R14). -/

namespace Sys2Proof.Machine

/-- -1.0. -/
def fnegOne : F64 := 0xBFF0000000000000#64

/-- A value inside R13's bounds -1.0 ≤ v ≤ 1.0: `v` itself when it is, 1.0 otherwise. -/
def clampUnit (v : F64) : F64 := if fle fnegOne v && fle v fone then v else fone

/-- `F_cos`: F_cos(+-0) = 1.0, and within [-1, 1] for every finite x (R13). -/
def fCos (x : F64) : F64 :=
  if fisZero x then fone
  else if fisFinite x then clampUnit (Config.rawCos x)
  else fcanon (Config.rawCos (fcanon x))

/-- `F_sin`: F_sin(+-0) = +-0, and within [-1, 1] for every finite x (R13). -/
def fSin (x : F64) : F64 :=
  if fisZero x then x
  else if fisFinite x then clampUnit (Config.rawSin x)
  else fcanon (Config.rawSin (fcanon x))

/-- `F_exp`: F_exp(+0) = 1.0 (R13). -/
def fExp (x : F64) : F64 :=
  if x = fzero then fone else fcanon (Config.rawExp (fcanon x))

/-- R13's special values of a logarithm around its free part `raw`: +0.0 at 1.0, -infinity at +-0, NaN below
zero and at NaN, +infinity at +infinity. -/
def logSpecial (raw : F64 → F64) (x : F64) : F64 :=
  if fisNaN x then fnan
  else if fisZero x then fninf
  else if fsign x then fnan
  else if x = fone then fzero
  else if fisInf x then finf
  else fcanon (raw x)

/-- `F_ln` (R13). -/
def fLn (x : F64) : F64 := logSpecial Config.rawLn x

/-- `F_log10` (R13). -/
def fLog10 (x : F64) : F64 := logSpecial Config.rawLog10 x

/-- `F_pow(x, y)`: F_pow(x, +-0) = 1.0, F_pow(1.0, y) = 1.0, F_pow(x, 1.0) = x, any other NaN operand gives
NaN, F_pow(+0, y) = +0.0 for y > 0 (R13). -/
def fPow (x y : F64) : F64 :=
  if fisZero y then fone
  else if x = fone then fone
  else if y = fone then fcanon x
  else if fisNaN x || fisNaN y then fnan
  else if x = fzero && flt fzero y then fzero
  else fcanon (Config.rawPow x y)

/-- `F_atan2(y, x)`: F_atan2(+0, x) = +0.0 for x > 0 (R13). -/
def fAtan2 (y x : F64) : F64 :=
  if y = fzero && flt fzero x then fzero
  else fcanon (Config.rawAtan2 (fcanon y) (fcanon x))

end Sys2Proof.Machine
end

