-- ==== Sys2Proof/Machine/Fft.lean ====
section
/-! DEFINITION. The FFT commands PLAN, FFT_FWD, FFT_REAL and FFT_INV and their two datapaths
(spec/40_fft.md). Tables and working arrays are lists; an index outside one never occurs in a built plan,
and reads as zero. -/

namespace Sys2Proof.Machine

/-! ## Tables of the power-of-two datapath -/

/-- rev_p(i): the p-bit binary representation of i reversed (R160). -/
def revBits : Nat → Nat → Nat
  | 0, _ => 0
  | p + 1, i => (i % 2) * 2 ^ p + revBits p (i / 2)

/-- BREV[0..N-1] (R160). -/
def brevTable (n : Nat) : List Nat := (List.range n).map (revBits (Nat.log2 n))

/-- TW[t] = (F_cos(theta_t), -F_sin(theta_t)), theta_t = (TWO_PI64 * f64(t)) / f64(N) (R161). -/
def twiddle (n t : Nat) : C64 :=
  let theta := fdiv (fmul ftwoPi (f64OfNat t)) (f64OfNat n)
  ⟨fCos theta, fneg (fSin theta)⟩

/-- TW[0..N-1] (R161). -/
def twTable (n : Nat) : List C64 := (List.range n).map (twiddle n)

/-! ## The power-of-two datapath -/

/-- The direction of a transform (R162). -/
inductive Dir where
  | fwd
  | inv
deriving DecidableEq, Repr

/-- T(t): TW[t], conjugated for the inverse (R164). -/
def twAt {R C : Type} (A : CArith R C) (tw : List C) (dir : Dir) (t : Nat) : C :=
  match dir with
  | .fwd => tw.getD t A.zero
  | .inv => A.conj (tw.getD t A.zero)

/-- Step 1: the bit-reversed load a[i] <- x[BREV[i]] (R162). -/
def brevLoad {R C : Type} (A : CArith R C) (brev : List Nat) (x : List C) (n : Nat) : List C :=
  (List.range n).map (fun i => x.getD (brev.getD i 0) A.zero)

/-- One pair of the radix-2 parity stage (R163). -/
def radix2Pair {R C : Type} (A : CArith R C) (a : List C) (m : Nat) : List C :=
  let u := a.getD (2 * m) A.zero
  let v := a.getD (2 * m + 1) A.zero
  (a.set (2 * m) (A.add u v)).set (2 * m + 1) (A.sub u v)

/-- Step 2: the radix-2 parity stage (R163). -/
def radix2Stage {R C : Type} (A : CArith R C) (a : List C) (n : Nat) : List C :=
  (List.range (n / 2)).foldl (radix2Pair A) a

/-- The radix-4 butterfly on group base b, offset k, quarter length l, stride st (R164). -/
def butterfly {R C : Type} (A : CArith R C) (tw : List C) (dir : Dir) (l st b : Nat) (a : List C)
    (k : Nat) : List C :=
  let y0 := a.getD (b + k) A.zero
  let y2 := a.getD (b + l + k) A.zero
  let y1 := a.getD (b + 2 * l + k) A.zero
  let y3 := a.getD (b + 3 * l + k) A.zero
  let z1 := A.mul y1 (twAt A tw dir (k * st))
  let z2 := A.mul y2 (twAt A tw dir (2 * k * st))
  let z3 := A.mul y3 (twAt A tw dir (3 * k * st))
  let t0 := A.add y0 z2
  let t1 := A.sub y0 z2
  let t2 := A.add z1 z3
  let t3 := A.sub z1 z3
  let r := match dir with
    | .fwd => A.rotNegI t3
    | .inv => A.rotPosI t3
  (((a.set (b + k) (A.add t0 t2)).set (b + l + k) (A.add t1 r)).set (b + 2 * l + k)
    (A.sub t0 t2)).set (b + 3 * l + k) (A.sub t1 r)

/-- One group of a radix-4 stage: offsets 0..l-1 in ascending order (R165). -/
def radix4Group {R C : Type} (A : CArith R C) (tw : List C) (dir : Dir) (l st : Nat) (a : List C)
    (g : Nat) : List C :=
  (List.range l).foldl (butterfly A tw dir l st (g * (4 * l))) a

/-- One radix-4 stage: groups 0..S-1 in ascending order, S = N/(4L) (R165). -/
def radix4Stage {R C : Type} (A : CArith R C) (tw : List C) (dir : Dir) (n l : Nat) (a : List C) :
    List C :=
  (List.range (n / (4 * l))).foldl (radix4Group A tw dir l (n / (4 * l))) a

/-- Step 3: the radix-4 loop while L < N (R165). `fuel` bounds its passes; log2(N) is enough, since L grows
fourfold. -/
def radix4Loop {R C : Type} (A : CArith R C) (tw : List C) (dir : Dir) (n : Nat) :
    Nat → Nat → List C → List C
  | 0, _, a => a
  | fuel + 1, l, a =>
    if l < n then radix4Loop A tw dir n fuel (4 * l) (radix4Stage A tw dir n l a) else a

/-- `fft_p2(x, N, dir)` with the tables of N (R162 to R165). -/
def fftP2 {R C : Type} (A : CArith R C) (brev : List Nat) (tw : List C) (x : List C) (n : Nat)
    (dir : Dir) : List C :=
  let a := brevLoad A brev x n
  if Nat.log2 n % 2 = 1 then radix4Loop A tw dir n (Nat.log2 n) 2 (radix2Stage A a n)
  else radix4Loop A tw dir n (Nat.log2 n) 1 a

/-- Every component divided by f64(N) (R166, R176). -/
def scaleDown {R C : Type} (A : CArith R C) (n : Nat) (x : List C) : List C :=
  x.map (fun c => A.divNat c n)

/-- `inv_p2(x, N)` (R166). -/
def invP2 {R C : Type} (A : CArith R C) (brev : List Nat) (tw : List C) (x : List C) (n : Nat) : List C :=
  scaleDown A n (fftP2 A brev tw x n .inv)

/-- Bins N/2+1..N-1 written as the conjugates of bins N/2-1..1 (R167). -/
def mirror {R C : Type} (A : CArith R C) (n : Nat) (x : List C) : List C :=
  (List.range n).map (fun k =>
    if n / 2 < k then A.conj (x.getD (n - k) A.zero) else x.getD k A.zero)

/-- `real_p2(x, N)`: the samples enter as (x[n], +0.0) (R167). -/
def realP2 {R C : Type} (A : CArith R C) (brev : List Nat) (tw : List C) (x : List R) (n : Nat) :
    List C :=
  mirror A n (fftP2 A brev tw (x.map A.ofReal) n .fwd)

/-! ## The Bluestein datapath -/

/-- `chirp(N)` (R171). -/
def chirp (n : Nat) : List C64 :=
  let theta := fdiv (fneg ftwoPi) (f64OfNat n)
  let bre := fCos theta
  let bim := fSin theta
  let rho := fsqrt (fadd (fmul bre bre) (fmul bim bim))
  let phi := fAtan2 bim bre
  (List.range n).map (fun j =>
    let e := fdiv (f64OfNat (j * j)) ftwo
    let modn := fPow rho e
    let argn := fmul e phi
    ⟨fmul modn (fCos argn), fmul modn (fSin argn)⟩)

/-- The inverse-chirp buffer ICH[0..M-1]: conj(W[abs(j - (N-1))]) for j ≤ 2N-2, zero above (R172). -/
def ichirp {R C : Type} (A : CArith R C) (n m : Nat) (w : List C) : List C :=
  (List.range m).map (fun j =>
    if j ≤ 2 * n - 2 then A.conj (w.getD ((j : Int) - ((n : Int) - 1)).natAbs A.zero)
    else A.zero)

/-- `ichirp_transform(N, M, W)`: BF (R172). -/
def ichirpTransform {R C : Type} (A : CArith R C) (n m : Nat) (brevM : List Nat) (twM : List C)
    (w : List C) : List C :=
  fftP2 A brevM twM (ichirp A n m w) m .fwd

/-- The lines of R173 after the first: zero-pad to M, inner forward transform, product with BF, inner inverse
transform, and the window of the result times the chirp. `a` holds A[0..N-1]. -/
def bsConvolve {R C : Type} (A : CArith R C) (n m : Nat) (brevM : List Nat) (twM w bf : List C)
    (a : List C) : List C :=
  let padded := (List.range m).map (fun j => if j < n then a.getD j A.zero else A.zero)
  let f := fftP2 A brevM twM padded m .fwd
  let p := (List.range m).map (fun j => A.mul (f.getD j A.zero) (bf.getD j A.zero))
  let c := invP2 A brevM twM p m
  (List.range n).map (fun k => A.mul (c.getD (k + n - 1) A.zero) (w.getD k A.zero))

/-- `bs_fwd(x)` (R173). -/
def bsFwd {R C : Type} (A : CArith R C) (n m : Nat) (brevM : List Nat) (twM w bf : List C)
    (x : List C) : List C :=
  bsConvolve A n m brevM twM w bf
    ((List.range n).map (fun j => A.mul (x.getD j A.zero) (w.getD j A.zero)))

/-- `bs_real(x)`: `bs_fwd` with its first line's product replaced by `rmul` (R174). -/
def bsReal {R C : Type} (A : CArith R C) (n m : Nat) (brevM : List Nat) (twM w bf : List C)
    (x : List R) : List C :=
  bsConvolve A n m brevM twM w bf
    ((List.range n).map (fun j => A.rmul (x.getD j A.rzero) (w.getD j A.zero)))

/-- `bs_inv(x)` (R176). -/
def bsInv {R C : Type} (A : CArith R C) (n m : Nat) (brevM : List Nat) (twM w bf : List C)
    (x : List C) : List C :=
  scaleDown A n ((bsFwd A n m brevM twM w bf (x.map A.conj)).map A.conj)

/-! ## The plan and the dispatch (R140) -/

/-- `check_plan_length(N)` (R145). -/
def checkPlanLength (p : Params) (n : Nat) : Option Err :=
  firstError
    [(decide (n ≤ 1), .invalidLength),
     (isPow2 n && decide (2 ^ p.planMaxLog2 < n), .capacity),
     (!(isPow2 n) && decide (2 ^ p.planMaxLog2 < nextPow2 (2 * n - 1)), .capacity)]

/-- The plan PLAN constructs for length N (R140, R141, R170). -/
def buildPlan (n : Nat) : Plan :=
  if isPow2 n then { pn := n, tables := .p2 (brevTable n) (twTable n) }
  else
    let m := nextPow2 (2 * n - 1)
    let w := chirp n
    { pn := n
      tables := .bs m (brevTable m) (twTable m) w
        (ichirpTransform f64Arith n m (brevTable m) (twTable m) w) }

/-- The forward complex transform of the plan's kind (R142). -/
def planFwd (p : Plan) (x : List C64) : List C64 :=
  match p.tables with
  | .p2 brev tw => fftP2 f64Arith brev tw x p.pn .fwd
  | .bs m brevM twM w bf => bsFwd f64Arith p.pn m brevM twM w bf x

/-- The real-input transform of the plan's kind (R143, R261). -/
def planReal (p : Plan) (x : List F64) : List C64 :=
  match p.tables with
  | .p2 brev tw => realP2 f64Arith brev tw x p.pn
  | .bs m brevM twM w bf => bsReal f64Arith p.pn m brevM twM w bf x

/-- The inverse complex transform of the plan's kind (R144). -/
def planInv (p : Plan) (x : List C64) : List C64 :=
  match p.tables with
  | .p2 brev tw => invP2 f64Arith brev tw x p.pn
  | .bs m brevM twM w bf => bsInv f64Arith p.pn m brevM twM w bf x

/-! ## The commands -/

/-- PLAN (R141). -/
def execPlan (s : State) : Host.Outcome State Fault Refusal :=
  let n := s.snap.planN.toNat
  match checkPlanLength s.params n with
  | some e => .next (s.fail e)
  | none => .next (s.installPlan (buildPlan n)).complete

/-- The read interval of a transform that reads `words` words at FFT_SRC (R142 to R144). -/
def fftReads (s : State) (words : Nat) : Interval := { start := s.snap.fftSrc.toNat, len := words }

/-- The write interval of the transforms: PLAN_OBUF words at FFT_DST (R142 to R144, R175). -/
def fftWrites (s : State) : Interval :=
  { start := s.snap.fftDst.toNat, len := s.planObuf.toNat }

/-- The range and alias checks the three transforms share (R142 to R144). -/
def fftBufferError (s : State) (words : Nat) : Option Err :=
  firstError
    [(anyOutOfRange s.params [fftReads s words, fftWrites s], .range),
     (anyAlias [fftReads s words] (fftWrites s), .aliasing)]

/-- `CWrite(DST, N, X)` and the completion of the three transforms (R142 to R144, R175). -/
def fftFinish (s : State) (xs : List C64) : State :=
  (s.engineWrite s.snap.fftDst.toNat (ofComplex xs)).complete

/-- FFT_FWD (R142). -/
def execFftFwd (s : State) : Host.Outcome State Fault Refusal :=
  match s.plan with
  | none => .next (s.fail .noPlan)
  | some p =>
    match fftBufferError s (2 * p.pn) with
    | some e => .next (s.fail e)
    | none =>
      match cRead s.mem s.snap.fftSrc.toNat p.pn with
      | none => .fault .unwrittenRead
      | some x => .next (fftFinish s (planFwd p x))

/-- FFT_REAL (R143). -/
def execFftReal (s : State) : Host.Outcome State Fault Refusal :=
  match s.plan with
  | none => .next (s.fail .noPlan)
  | some p =>
    match fftBufferError s p.pn with
    | some e => .next (s.fail e)
    | none =>
      match memRead s.mem s.snap.fftSrc.toNat p.pn with
      | none => .fault .unwrittenRead
      | some x => .next (fftFinish s (planReal p x))

/-- FFT_INV (R144). -/
def execFftInv (s : State) : Host.Outcome State Fault Refusal :=
  match s.plan with
  | none => .next (s.fail .noPlan)
  | some p =>
    match fftBufferError s (2 * p.pn) with
    | some e => .next (s.fail e)
    | none =>
      match cRead s.mem s.snap.fftSrc.toNat p.pn with
      | none => .fault .unwrittenRead
      | some x => .next (fftFinish s (planInv p x))

end Sys2Proof.Machine
end

