-- ==== Sys2Proof/Machine/Mel.lean ====
section
/-! DEFINITION. The mel filter-bank builder MEL_BUILD (spec/42_melbank.md). -/

namespace Sys2Proof.Machine

/-! ## Mel scales (R222 to R224) -/

/-- LOGSTEP = 27.0 / F_ln(6.4) (R224). -/
def logStep : F64 := fdiv (f64OfNat 27) (fLn (f64OfDecimal false 64 (-1)))

/-- `hz_to_mel(scale, f)` (R222, R224). -/
def hzToMel (scale : Nat) (f : F64) : F64 :=
  if scale = 0 then fmul (f64OfNat 2595) (fLog10 (fadd fone (fdiv f (f64OfNat 700))))
  else if scale = 1 then fmul (f64OfNat 1127) (fLn (fadd fone (fdiv f (f64OfNat 700))))
  else if fle (f64OfNat 1000) f then
    fadd (f64OfNat 15) (fmul (fLn (fdiv f (f64OfNat 1000))) logStep)
  else fdiv (fmul (f64OfNat 3) f) (f64OfNat 200)

/-- `mel_to_hz(scale, m)` (R223, R224). -/
def melToHz (scale : Nat) (m : F64) : F64 :=
  if scale = 0 then
    fmul (f64OfNat 700) (fsub (fPow (f64OfNat 10) (fdiv m (f64OfNat 2595))) fone)
  else if scale = 1 then fmul (f64OfNat 700) (fsub (fExp (fdiv m (f64OfNat 1127))) fone)
  else if fle (f64OfNat 15) m then
    fmul (f64OfNat 1000) (fExp (fdiv (fsub m (f64OfNat 15)) logStep))
  else fdiv (fmul (f64OfNat 200) m) (f64OfNat 3)

/-! ## Points, bins and triangles (R225 to R227) -/

/-- `linspace(a, b, k)` for k ≥ 2: p[i] = a + f64(i) * step, and the last point is b exactly (R225). -/
def linspace (a b : F64) (k : Nat) : List F64 :=
  (List.range k).map (fun i =>
    if i + 1 = k then b
    else fadd a (fmul (f64OfNat i) (fdiv (fsub b a) (f64OfNat (k - 1)))))

/-- `tri_weight(x, left, center, right)` (R226). -/
def triWeight (x left center right : F64) : F64 :=
  let down := fdiv (fsub x left) (fsub center left)
  let up := fdiv (fsub right x) (fsub right center)
  fmax fzero (fmin down up)

/-- `enorm(left, right)` = 2.0 / (right - left) (R227). -/
def enorm (left right : F64) : F64 := fdiv ftwo (fsub right left)

/-- The filter's defining points in Hz or mel (R221: `pts`). -/
def melPoints (c : ConfigRegs) : List F64 :=
  let mpts := linspace (hzToMel (melScale c) c.melFmin) (hzToMel (melScale c) c.melFmax)
    (c.melNfilt.toNat + 2)
  if melTriMel c then mpts else mpts.map (melToHz (melScale c))

/-- The bin positions in the same space (R221: `bins`). -/
def melBins (c : ConfigRegs) : List F64 :=
  let hz := linspace fzero (fdiv c.melSr ftwo) c.melNbins.toNat
  if melTriMel c then hz.map (hzToMel (melScale c)) else hz

/-- W[m][f], normalised when NORM = 1 (R221, R226, R227). -/
def melWeight (norm : Nat) (pts bins : List F64) (m f : Nat) : F64 :=
  let left := pts.getD m fzero
  let center := pts.getD (m + 1) fzero
  let right := pts.getD (m + 2) fzero
  let w := triWeight (bins.getD f fzero) left center right
  if norm = 1 then fmul w (enorm left right) else w

/-- The whole matrix, row-major (R220, R221). -/
def melMatrix (c : ConfigRegs) : List F64 :=
  let pts := melPoints c
  let bins := melBins c
  (List.range c.melNfilt.toNat).flatMap (fun m =>
    (List.range c.melNbins.toNat).map (fun f => melWeight (melNorm c) pts bins m f))

/-- MEL_BUILD's checks, in order (R221). -/
def melBuildError (s : State) : Option Err :=
  let nf := s.snap.melNfilt.toNat
  let nb := s.snap.melNbins.toNat
  firstError
    [(decide (1 < melNorm s.snap), .invalidNorm),
     (decide (2 < melScale s.snap), .invalidMelScale),
     (decide (nf < 1) || decide (nb < 2), .melDims),
     (anyOutOfRange s.params [{ start := s.snap.melDst.toNat, len := nf * nb }], .range)]

/-- MEL_BUILD (R221). -/
def execMelBuild (s : State) : Host.Outcome State Fault Refusal :=
  match melBuildError s with
  | some e => .next (s.fail e)
  | none => .next (s.engineWrite s.snap.melDst.toNat (melMatrix s.snap)).complete

end Sys2Proof.Machine
end

