-- ==== Sys2Proof/Machine/Spectrogram.lean ====
section
/-! DEFINITION. The spectrogram pipeline SPECTROGRAM (spec/43_spectrogram.md), one definition per step. -/

namespace Sys2Proof.Machine

/-! ## Shape (R253, R255 to R257) -/

/-- `pad` (R253, R255): floor_div(NFFT - 1, 2) + 1, which is (NFFT + 1) / 2 for every NFFT ≥ 0. -/
def sgPad (o : SgOps) : Nat := if o.center then (o.nfft + 1) / 2 else 0

/-- `P`, the padded length (R253). -/
def sgPadded (o : SgOps) : Nat := o.len + 2 * sgPad o

/-- `NB`, the bins kept (R257). -/
def sgBins (o : SgOps) : Nat := if o.onesided then o.nfft / 2 + 1 else o.nfft

/-- The frame count before the clamps: 1 + floor_div(P - FL, HOP), taken as 0 when negative (R256). -/
def sgRawFrames (o : SgOps) : Nat :=
  (1 + Int.fdiv ((sgPadded o : Int) - (o.fl : Int)) (o.hop : Int)).toNat

/-- `T_comp` (R256): clamped up to MINF, then down to MAXF, each when enabled. -/
def sgCompCount (o : SgOps) : Nat :=
  let c := if o.minFramesEn then max (sgRawFrames o) o.minf else sgRawFrames o
  if o.maxFramesEn then min c o.maxf else c

/-- `T_out` (R256). -/
def sgOutCount (o : SgOps) : Nat :=
  if o.maxFramesEn && o.doPad && decide (sgCompCount o < o.maxf) then o.maxf else sgCompCount o

/-- `R`, the output rows (R253). -/
def sgRows (o : SgOps) : Nat := if o.melEn then o.mr else sgBins o

/-- `OW`, the output words (R253); the output is complex when POWER_EN = 0. -/
def sgOutWords (o : SgOps) : Nat :=
  sgRows o * sgOutCount o * (if o.powerEn then 1 else 2)

/-! ## Checks (R252, R254) -/

/-- The eleven checks of R252, in order. -/
def sgConfigChecks (plan : Option Plan) (o : SgOps) : List (Bool × Err) :=
  let db := o.powerEn && (o.logMel == 3)
  [(o.fl == 0 || decide (o.nfft < o.fl), .frameLen),
   (o.winl != o.fl, .windowLen),
   (o.hop == 0, .hop),
   (!o.powerEn && o.melEn, .complexMel),
   (o.padMode != 0, .notImplemented),
   (decide (3 < o.logMel), .logMelCode),
   (db && !(feq o.pw fone) && !(feq o.pw ftwo), .dbPower),
   (db && (!(flt fzero o.ref) || !(flt fzero o.minv) || (o.dbRangeEn && !(flt fzero o.dbr))),
     .dbParam),
   (plan.isNone, .noPlan),
   ((plan.map Plan.pn).getD 0 != o.nfft, .planMismatch),
   (o.melEn && (o.mr == 0 || o.mc != sgBins o), .melMismatch)]

/-- The read intervals: waveform, window and, when enabled, mel matrix (R254). -/
def sgReads (o : SgOps) : List Interval :=
  [{ start := o.wa, len := o.len }, { start := o.wina, len := o.fl }]
    ++ (if o.melEn then [{ start := o.mela, len := o.mr * o.mc }] else [])

/-- The write interval (R254). -/
def sgWrites (o : SgOps) : Interval := { start := o.out, len := sgOutWords o }

/-- `check_buffers()`: E_RANGE, then E_ALIAS (R254). -/
def sgBufferChecks (p : Params) (o : SgOps) : List (Bool × Err) :=
  [(anyOutOfRange p (sgReads o ++ [sgWrites o]), .range),
   (anyAlias (sgReads o) (sgWrites o), .aliasing)]

/-- SPECTROGRAM's first failing check (R251, R313). -/
def sgError (s : State) : Option Err :=
  firstError (sgConfigChecks s.plan (sgOps s.snap) ++ sgBufferChecks s.params (sgOps s.snap))

/-! ## Framing (R255, R258 to R260) -/

/-- `refl(i)` for a waveform of length L ≥ 1 (R255). -/
def reflIndex (i : Int) (len : Nat) : Nat :=
  if 0 ≤ i ∧ i < (len : Int) then i.toNat
  else if len = 1 then 0
  else
    let q := (Int.fmod i (2 * ((len : Int) - 1))).toNat
    if q < len then q else 2 * (len - 1) - q

/-- `xp[s]`, the padded sequence (R255); +0.0 when L = 0. -/
def paddedSample (o : SgOps) (x : List F64) (s : Nat) : F64 :=
  if o.len = 0 then fzero
  else x.getD (reflIndex ((s : Int) - (sgPad o : Int)) o.len) fzero

/-- The FL samples of frame t before any processing; +0.0 past the padded end (R260). -/
def rawFrame (o : SgOps) (x : List F64) (t : Nat) : List F64 :=
  (List.range o.fl).map (fun j =>
    if t * o.hop + j < sgPadded o then paddedSample o x (t * o.hop + j) else fzero)

/-- DC removal over the frame's FL samples (R258). -/
def removeMean (buf : List F64) : List F64 :=
  let mean := fdiv (buf.foldl fadd fzero) (f64OfNat buf.length)
  buf.map (fun v => fsub v mean)

/-- Pre-emphasis over the frame's FL samples: every sample reads its predecessor before that one changes
(R259's descending order). -/
def preEmphasis (pre : F64) (buf : List F64) : List F64 :=
  (List.range buf.length).map (fun j =>
    if j = 0 then fmul (buf.getD 0 fzero) (fsub fone pre)
    else fsub (buf.getD j fzero) (fmul pre (buf.getD (j - 1) fzero)))

/-- `frame(t)`: FL samples processed and windowed, then zeros up to NFFT (R260). -/
def frame (o : SgOps) (x win : List F64) (t : Nat) : List F64 :=
  let raw := rawFrame o x t
  let dc := if o.removeDc then removeMean raw else raw
  let emph := if o.preemphEn then preEmphasis o.pre dc else dc
  (List.range o.fl).map (fun j => fmul (emph.getD j fzero) (win.getD j fzero))
    ++ List.replicate (o.nfft - o.fl) fzero

/-- The NB bins kept of frame t's transform (R261). -/
def frameBins (o : SgOps) (p : Plan) (x win : List F64) (t : Nat) : List C64 :=
  (planReal p (frame o x win t)).take (sgBins o)

/-! ## Magnitude, mel, floor and log (R262 to R267) -/

/-- re*re + im*im (R262). -/
def magSquared (c : C64) : F64 := fadd (fmul c.re c.re) (fmul c.im c.im)

/-- The exponent of step 5 (R262). -/
def powerExp (rule : PowerExpRule) (pw : F64) : F64 :=
  match rule with
  | .twoOverPower => fdiv ftwo pw
  | .powerOverTwo => fdiv pw ftwo

/-- `power_map` (R262). -/
def powerMap (rule : PowerExpRule) (pw : F64) (col : List F64) : List F64 :=
  if feq pw ftwo then col else col.map (fun v => fPow v (powerExp rule pw))

/-- One mel row times the column, summed in ascending order from +0.0 (R263). -/
def melDot (mel : List F64) (mc nb : Nat) (col : List F64) (m : Nat) : F64 :=
  (List.range nb).foldl
    (fun acc f => fadd acc (fmul (mel.getD (m * mc + f) fzero) (col.getD f fzero))) fzero

/-- `mel_project` (R263). -/
def melProject (o : SgOps) (mel col : List F64) : List F64 :=
  if o.melEn then (List.range o.mr).map (melDot mel o.mc (sgBins o) col) else col

/-- `floor_clip` (R265). -/
def floorClip (flo : F64) (col : List F64) : List F64 := col.map (fmax flo)

/-- factor: 20.0 for power 1.0, 10.0 for power 2.0 (R267). -/
def dbFactor (pw : F64) : F64 := if feq pw fone then f64OfNat 20 else f64OfNat 10

/-- The dB value of v (R267). -/
def dbValue (o : SgOps) (v : F64) : F64 :=
  fsub (fmul (dbFactor o.pw) (fLog10 (fmax o.minv v)))
    (fmul (dbFactor o.pw) (fLog10 (fmax o.minv o.ref)))

/-- `log_map` on one value (R266). -/
def logValue (o : SgOps) (v : F64) : F64 :=
  if o.logMel = 1 then fLn v
  else if o.logMel = 2 then fLog10 v
  else if o.logMel = 3 then dbValue o v
  else v

/-- Steps 5 to 8 (elementwise part) on one column of squared magnitudes (R251). -/
def realColumn (rule : PowerExpRule) (o : SgOps) (mel col : List F64) : List F64 :=
  (floorClip o.flo (melProject o mel (powerMap rule o.pw col))).map (logValue o)

/-- The column of output frame t of a real output: computed for t < T_comp, all-zero magnitudes otherwise
(R251, R264). -/
def realFrame (rule : PowerExpRule) (o : SgOps) (p : Plan) (x win mel : List F64) (t : Nat) :
    List F64 :=
  realColumn rule o mel
    (if t < sgCompCount o then (frameBins o p x win t).map magSquared
     else List.replicate (sgBins o) fzero)

/-- The column of output frame t of a complex output (R251, R264, R268). -/
def complexFrame (o : SgOps) (p : Plan) (x win : List F64) (t : Nat) : List C64 :=
  if t < sgCompCount o then frameBins o p x win t else List.replicate (sgBins o) czero

/-- `db_range_clip` over every value of the output (R267); nothing to clip when there is no value. -/
def dbRangeClip (dbr : F64) (ys : List (List F64)) : List (List F64) :=
  match ys.flatten with
  | [] => ys
  | v :: vs => ys.map (fun col => col.map (fmax (fsub (maxseq v vs) dbr)))

/-! ## Output (R268, R269) -/

/-- The (frame, row) pairs in the order of the output words: row-major over R x T_out, or over T_out x R when
transposed (R268, R269). -/
def outputOrder (o : SgOps) : List (Nat × Nat) :=
  if o.transpose then
    (List.range (sgOutCount o)).flatMap (fun t => (List.range (sgRows o)).map (fun r => (t, r)))
  else
    (List.range (sgRows o)).flatMap (fun r => (List.range (sgOutCount o)).map (fun t => (t, r)))

/-- The columns Y[.][t] of a real output, range-clipped when asked (R251, R267). -/
def realColumns (rule : PowerExpRule) (o : SgOps) (p : Plan) (x win mel : List F64) :
    List (List F64) :=
  let ys := (List.range (sgOutCount o)).map (realFrame rule o p x win mel)
  if o.logMel == 3 && o.dbRangeEn then dbRangeClip o.dbr ys else ys

/-- The columns Y[.][t] of a complex output (R251). -/
def complexColumns (o : SgOps) (p : Plan) (x win : List F64) : List (List C64) :=
  (List.range (sgOutCount o)).map (complexFrame o p x win)

/-- The output words in ascending address order (R268, R269). -/
def spectrogramWords (rule : PowerExpRule) (o : SgOps) (p : Plan) (x win mel : List F64) :
    List F64 :=
  if o.powerEn then
    let ys := realColumns rule o p x win mel
    (outputOrder o).map (fun tr => (ys.getD tr.1 []).getD tr.2 fzero)
  else
    let ys := complexColumns o p x win
    ofComplex ((outputOrder o).map (fun tr => (ys.getD tr.1 []).getD tr.2 czero))

/-! ## The command -/

/-- The mel matrix words SPECTROGRAM reads: none when MEL_EN = 0 (R254). -/
def sgReadMel (m : Memory) (o : SgOps) : Option (List F64) :=
  if o.melEn then memRead m o.mela (o.mr * o.mc) else some []

/-- SPECTROGRAM (R251). The arm without a plan repeats check 9 of R252, which has already raised it. -/
def execSpectrogram (s : State) : Host.Outcome State Fault Refusal :=
  let o := sgOps s.snap
  match sgError s, s.plan with
  | some e, _ => .next (s.fail e)
  | none, none => .next (s.fail .noPlan)
  | none, some p =>
    match memRead s.mem o.wa o.len, memRead s.mem o.wina o.fl, sgReadMel s.mem o with
    | some x, some win, some mel =>
      .next ((s.engineWrite o.out
        (spectrogramWords s.params.powerExpRule o p x win mel)).setShape
          (sgRows o) (sgOutCount o) (sgCompCount o)).complete
    | _, _, _ => .fault .unwrittenRead

end Sys2Proof.Machine
end

