-- ==== Sys2Proof/Machine/Window.lean ====
section
/-! DEFINITION. The window generator WIN_GEN (spec/41_window.md). -/

namespace Sys2Proof.Machine

/-- a0 of hann and povey, 0.5 (R200). -/
def a0Hann : F64 := 0x3FE0000000000000#64
/-- a0 of hamming, the binary64 value nearest 0.54 (R200). -/
def a0Hamming : F64 := 0x3FE147AE147AE148#64
/-- Povey's exponent, the binary64 value nearest 0.85 (R205). -/
def poveyExp : F64 := 0x3FEB333333333333#64

/-- The generalised-cosine period Mlen of a window of length n ≥ 2 (R202). -/
def windowPeriod (periodic : Bool) (n : Nat) : Nat := if periodic then n + 1 else n

/-- step = TWO_PI64 / f64(Mlen - 1) (R203). -/
def windowStep (mlen : Nat) : F64 := fdiv ftwoPi (f64OfNat (mlen - 1))

/-- a0 - (1.0 - a0) * F_cos(f64(i) * step), each operation rounded (R203). -/
def cosineValue (a0 : F64) (i mlen : Nat) : F64 :=
  fsub a0 (fmul (fsub fone a0) (fCos (fmul (f64OfNat i) (windowStep mlen))))

/-- `win_value(kind, i, Mlen)` for n ≥ 2 (R203 to R205). -/
def winValue (kind i mlen : Nat) : F64 :=
  if kind = 0 then fone
  else if kind = 1 then cosineValue a0Hann i mlen
  else if kind = 2 then cosineValue a0Hamming i mlen
  else fPow (cosineValue a0Hann i mlen) poveyExp

/-- `window(length, kind, periodic)` (R201, R206). -/
def window (kind : Nat) (periodic : Bool) (n : Nat) : List F64 :=
  if n = 0 then []
  else if n = 1 then [fone]
  else (List.range n).map (fun i => winValue kind i (windowPeriod periodic n))

/-- WIN_GEN's checks, in order (R201). -/
def winGenError (s : State) : Option Err :=
  firstError
    [(decide (3 < winKind s.snap), .unknownWindow),
     (anyOutOfRange s.params [{ start := s.snap.winDst.toNat, len := s.snap.winLen.toNat }],
       .range)]

/-- WIN_GEN (R201). -/
def execWinGen (s : State) : Host.Outcome State Fault Refusal :=
  match winGenError s with
  | some e => .next (s.fail e)
  | none =>
    .next (s.engineWrite s.snap.winDst.toNat
      (window (winKind s.snap) (winPeriodic s.snap) s.snap.winLen.toNat)).complete

end Sys2Proof.Machine
end

