-- ==== Sys2Proof/Machine/Dispatch.lean ====
section
/-! DEFINITION. The meaning of each command, one arm per constructor. -/

namespace Sys2Proof.Machine

def exec (i : Instr) (s : State) : Host.Outcome State Fault Refusal :=
  match i with
  | .nop => Sys2Proof.Machine.execNop s
  | .plan => Sys2Proof.Machine.execPlan s
  | .fftFwd => Sys2Proof.Machine.execFftFwd s
  | .fftReal => Sys2Proof.Machine.execFftReal s
  | .fftInv => Sys2Proof.Machine.execFftInv s
  | .winGen => Sys2Proof.Machine.execWinGen s
  | .melBuild => Sys2Proof.Machine.execMelBuild s
  | .spectrogram => Sys2Proof.Machine.execSpectrogram s

end Sys2Proof.Machine
end

