-- ==== Sys2Proof/Machine/Engine.lean ====
section
/-! DEFINITION. The engine's turn (spec/30_encoding.md rules R111, R116, R117): the accepted word is decoded and
its command runs to completion, one atomic step from the host's view (spec/20_memory.md R92). -/

namespace Sys2Proof.Machine

/-- The running command completes: a legal word by its command's rule, an illegal one with E_ILLEGAL_CMD
(R111, R114). -/
def engineStep (s : State) : Host.Outcome State Fault Refusal :=
  match decode s.cmd with
  | .ok i => exec i s
  | .error _ => .next (s.fail .illegalCmd)

/-- The state in which `w` has just been accepted (R116) and the engine has the next turn. -/
def State.acceptNow (w : Word) (s : State) : State := { s.accept w 0 with rstN := true }

end Sys2Proof.Machine
end

