-- ==== Sys2Proof/Machine/Step.lean ====
section
/-! DEFINITION. One step of the machine: the agent whose turn it is acts (spec/10_state.md rule R30). -/

namespace Sys2Proof.Machine

/-- One step. -/
def step (s : State) : Host.Outcome State Fault Refusal :=
  match turn s with
  | .engine => engineStep s
  | .host => hostStep s

/-- `s` with the command word `w` accepted, so that the next step runs it (log entry 7). The engine fetches
no instruction (R96): an accepted CMD write is all that brings a command in. -/
def State.withFetchWord (s : State) (nbits w : Nat) : State :=
  s.acceptNow (BitVec.ofNat 64 (w % 2 ^ nbits))

end Sys2Proof.Machine
end

