-- ==== Sys2Proof/Machine/Assembly.lean ====
section
/-! DEFINITION. The statements of a host program as bus transactions (spec/30_encoding.md rules R120 to R122). -/

namespace Sys2Proof.Machine

/-- The 64-bit value of a literal: an integer in the low 64 bits, an f64 literal as its bit pattern (R120,
R121). -/
def literalWord : Literal → Word
  | .int n => BitVec.ofNat 64 n
  | .f64Dec neg digits exp10 => f64OfDecimal neg digits exp10
  | .f64Bits w => w

/-- An aligned 64-bit write of register `r` (R121). -/
def regWrite (r : Reg) (w : Word) : HostOp :=
  .bus { addr := regOffset r, size := 8, kind := .write w }

/-- An aligned 64-bit read of register `r` (R121). -/
def regRead (r : Reg) : HostOp := .bus { addr := regOffset r, size := 8, kind := .read }

/-- The aligned 64-bit writes of `MW a, v0, v1, ...` (R121). -/
def dmemWrites (a : Nat) : List Literal → List HostOp
  | [] => []
  | v :: vs =>
    .bus { addr := byteAddr a 0, size := 8, kind := .write (literalWord v) } :: dmemWrites (a + 1) vs

/-- The aligned 64-bit reads of `MR a, n` (R121). -/
def dmemReads (a n : Nat) : List HostOp :=
  (List.range n).map (fun k => .bus { addr := byteAddr (a + k) 0, size := 8, kind := .read })

/-- A statement's operations on the block (R121), a pseudo-instruction through its expansion (R122). -/
def expand : Stmt → List HostOp
  | .wr r v => [regWrite r (literalWord v)]
  | .wrf f v => [.rmw (fieldBits f).1 (fieldMask f) (fieldValue f v)]
  | .rd r => [regRead r]
  | .mw a vs => dmemWrites a vs
  | .mr a n => dmemReads a n
  | .cmd i => [regWrite .CMD (encode i)]
  | .wait => [.wait]
  | .run i => [regWrite .CMD (encode i), .wait]
  | .ack => [regWrite .STATUS 0xE]
  | .checkOk => [regRead .STATUS]
  | .checkErr => [regRead .STATUS, regRead .ERR_CODE]

/-- A host program: its statements in order (R120). -/
def program (ss : List Stmt) : List HostOp := ss.flatMap expand

end Sys2Proof.Machine
end

