-- ==== Sys2Proof/Safety.lean ====
section
/-! DEFINITION. What the claims are stated in: when a command fails, which DMEM words it reads and writes, the
machine's invariant, and what a safe run is. -/

namespace Sys2Proof.Machine

/-! ## A command's outcome -/

/-- The error a command reports, by its rule's list of checks (R313); `none` when it passes them all. -/
def commandError (i : Instr) (s : State) : Option Err :=
  match i with
  | .nop => none
  | .plan => checkPlanLength s.params s.snap.planN.toNat
  | .fftFwd =>
    match s.plan with
    | none => some .noPlan
    | some p => fftBufferError s (2 * p.pn)
  | .fftReal =>
    match s.plan with
    | none => some .noPlan
    | some p => fftBufferError s p.pn
  | .fftInv =>
    match s.plan with
    | none => some .noPlan
    | some p => fftBufferError s (2 * p.pn)
  | .winGen => winGenError s
  | .melBuild => melBuildError s
  | .spectrogram => sgError s

/-- The plan's length, 0 when there is no plan. -/
def planLen (s : State) : Nat := (s.plan.map Plan.pn).getD 0

/-- The word intervals a command reads (R81, R142 to R144, R254). -/
def readSpans (i : Instr) (s : State) : List Interval :=
  match i with
  | .nop => []
  | .plan => []
  | .fftFwd => [fftReads s (2 * planLen s)]
  | .fftReal => [fftReads s (planLen s)]
  | .fftInv => [fftReads s (2 * planLen s)]
  | .winGen => []
  | .melBuild => []
  | .spectrogram => sgReads (sgOps s.snap)

/-- The word interval a command writes when it succeeds (R81, R175, R201, R220, R253). -/
def writeSpan (i : Instr) (s : State) : Interval :=
  match i with
  | .nop => { start := 0, len := 0 }
  | .plan => { start := 0, len := 0 }
  | .fftFwd => { start := s.snap.fftDst.toNat, len := 2 * planLen s }
  | .fftReal => { start := s.snap.fftDst.toNat, len := 2 * planLen s }
  | .fftInv => { start := s.snap.fftDst.toNat, len := 2 * planLen s }
  | .winGen => { start := s.snap.winDst.toNat, len := s.snap.winLen.toNat }
  | .melBuild =>
    { start := s.snap.melDst.toNat, len := s.snap.melNfilt.toNat * s.snap.melNbins.toNat }
  | .spectrogram => sgWrites (sgOps s.snap)

/-- Every word of the interval has been written since reset (R99). -/
def allWritten (m : Memory) (iv : Interval) : Prop :=
  ∀ k < iv.len, (m.readWord (iv.start + k)).isSome

/-- Every word the command reads has been written since reset: R360's boot requirement (3). -/
def operandsWritten (i : Instr) (s : State) : Prop :=
  ∀ iv ∈ readSpans i s, allWritten s.mem iv

/-! ## The invariant -/

/-- A plan as PLAN builds one: the tables of its length, within the instance's capacity (R50, R141, R145). -/
def PlanLegal (p : Params) (pl : Plan) : Prop :=
  pl = buildPlan pl.pn ∧ checkPlanLength p pl.pn = none

/-- STATUS.PLAN_VALID, STATUS.PLAN_BS, PLAN_CUR_N, PLAN_M and PLAN_OBUF show the plan state (R36, R44, R50). -/
def PlanShown (s : State) : Prop :=
  match s.plan with
  | none =>
    s.status.planValid = false ∧ s.status.planBs = false ∧ s.planCurN = 0 ∧ s.planM = 0
      ∧ s.planObuf = 0
  | some p =>
    s.status.planValid = true ∧ s.status.planBs = p.isBs ∧ s.planCurN.toNat = p.pn
      ∧ s.planM.toNat = p.innerLen ∧ s.planObuf.toNat = p.obuf

/-- The code is 0 or one of R311's numbers; every other value is never produced (R311). -/
def CodeListed (c : BitVec 8) : Prop := c = 0 ∨ ∃ e : Err, c = errNumber e

/-- What holds of the machine at reset and after every step. -/
structure State.Inv (s : State) : Prop where
  /-- The parameters are in R6's ranges. -/
  params : s.params.Legal
  /-- DMEM is in its canonical form. -/
  memWf : s.mem.wf
  /-- DMEM holds only bytes of the DMEM window (R80, R81). -/
  memWindow : ∀ c ∈ s.mem, inDmemWindow s.params c.1 = true
  /-- The plan is one that PLAN builds. -/
  planLegal : ∀ p, s.plan = some p → PlanLegal s.params p
  /-- The plan registers and bits show it. -/
  planShown : PlanShown s
  /-- Nothing of a command stays while none runs (R51). -/
  idle : s.status.busy = false → s.cmd = 0 ∧ s.snap = ConfigRegs.zero ∧ s.latency = 0
  /-- A running command shows no completion and no error yet (R116). -/
  running : s.status.busy = true →
    s.status.done = false ∧ s.status.err = false ∧ s.errCode = errNone
  /-- ERR_CODE.CODE is a listed code (R311). -/
  code : CodeListed s.errCode.code
  /-- STATUS.ERR shows only beside a code (R312). -/
  errShown : s.status.err = true → s.errCode.code ≠ 0
  /-- An access that is held is one to the DMEM window (R88). -/
  heldWindow : ∀ t, s.held = some t → inDmemWindow s.params t.addr = true
  /-- In reset no command runs and no access is held (R350). -/
  inReset : s.rstN = false → s.status.busy = false ∧ s.held = none

/-! ## Safe runs -/

/-- The step from `s` neither faults nor is refused. -/
def SafeStep (s : State) : Prop := ∃ t, step s = .next t

/-- The first `n` steps from `s` all give a next state. -/
def SafeRun (n : Nat) (s : State) : Prop := ∃ t, Host.Core.run
  { State := State, Fault := Fault, Refusal := Refusal, step := step, reset := State.reset } n s
    = .next t

end Sys2Proof.Machine
end

