-- ==== Sys2Proof/Claims.lean ====
section
/-! DEFINITION. The vocabulary of the statements in Certificates/Slice0/Obligations.lean: frames, the exact value
an arithmetic result is nearest to, and the datapaths in exact arithmetic. -/

namespace Sys2Proof.Machine

/-! ## Frames -/

/-- Nothing of the host's side changes: parameters, reset level, CTRL, configuration registers, held access,
pending operations and last answer. -/
structure HostSideKept (s t : State) : Prop where
  params : t.params = s.params
  rstN : t.rstN = s.rstN
  irqEn : t.irqEn = s.irqEn
  cfg : t.cfg = s.cfg
  held : t.held = s.held
  host : t.host = s.host
  resp : t.resp = s.resp

/-- The plan state and everything that shows it is unchanged (R36, R44, R50). -/
structure PlanKept (s t : State) : Prop where
  plan : t.plan = s.plan
  planCurN : t.planCurN = s.planCurN
  planM : t.planM = s.planM
  planObuf : t.planObuf = s.planObuf
  planValid : t.status.planValid = s.status.planValid
  planBs : t.status.planBs = s.status.planBs

/-- SPECTROGRAM's result registers are unchanged (R270). -/
structure ShapeKept (s t : State) : Prop where
  rows : t.sgOutRows = s.sgOutRows
  frames : t.sgOutFrames = s.sgOutFrames
  comp : t.sgCompFrames = s.sgCompFrames

/-- Every DMEM byte outside the word interval reads as before. -/
def BytesKeptOutside (s t : State) (iv : Interval) : Prop :=
  ∀ a, (a < byteAddr iv.start 0 ∨ byteAddr (iv.start + iv.len) 0 ≤ a) →
    t.mem.readByte a = s.mem.readByte a

/-- Every DMEM byte reads as before. -/
def BytesKept (s t : State) : Prop := ∀ a, t.mem.readByte a = s.mem.readByte a

/-- The running command has completed: BUSY is 0 and DONE is 1 (R117, R312). -/
structure CommandOver (t : State) : Prop where
  busy : t.status.busy = false
  done : t.status.done = true

/-- A successful completion: DONE, and the other flags and ERR_CODE as they were (R117). -/
structure Succeeded (s t : State) : Prop where
  finished : CommandOver t
  err : t.status.err = s.status.err
  cmdOverrun : t.status.cmdOverrun = s.status.cmdOverrun
  errCode : t.errCode = s.errCode

/-- A failed completion with error code `c`: DONE, ERR and ERR_CODE, and nothing else (R312). -/
structure FailedWith (s t : State) (c : BitVec 8) : Prop where
  finished : CommandOver t
  err : t.status.err = true
  code : t.errCode.code = c
  opcode : t.errCode.opcode = s.cmd.extractLsb' 0 8
  cmdOverrun : t.status.cmdOverrun = s.status.cmdOverrun
  bytes : BytesKept s t
  plan : PlanKept s t
  shape : ShapeKept s t
  host : HostSideKept s t

/-- The next operation the host has served is the write of `w` to register `r`. -/
def ServesWrite (s : State) (r : Reg) (w : Word) : Prop :=
  s.rstN = true ∧ turn s = .host ∧ (s.status.busy = true ∨ s.held = none) ∧
    ∃ rest, s.host = regWrite r w :: rest

/-- The next operation the host has served releases reset. -/
def ReleasesReset (s : State) : Prop := s.rstN = false ∧ ∃ rest, s.host = .rstN true :: rest

/-- `f` applied to the next state of an outcome. -/
def mapNext (f : State → State) : Host.Outcome State Fault Refusal → Host.Outcome State Fault Refusal
  | .next t => .next (f t)
  | .fault r => .fault r
  | .refused r => .refused r

/-- The u32 configuration registers (R39). -/
def u32Regs : List Reg :=
  ([.PLAN_N, .FFT_SRC, .FFT_DST, .WIN_DST, .WIN_LEN, .MEL_DST, .MEL_NBINS, .MEL_NFILT] : List Reg)
    ++ ([.SG_WAVE_ADDR, .SG_WAVE_LEN, .SG_FRAME_LEN, .SG_FFT_LEN, .SG_HOP, .SG_WIN_ADDR] : List Reg)
    ++ ([.SG_WIN_LEN, .SG_MEL_ADDR, .SG_MEL_ROWS, .SG_MEL_COLS, .SG_OUT_ADDR, .SG_MIN_FRAMES] : List Reg)
    ++ ([.SG_MAX_FRAMES] : List Reg)

/-- The f64 configuration registers (R40). -/
def f64Regs : List Reg :=
  ([.MEL_FMIN, .MEL_FMAX, .MEL_SR, .SG_POWER, .SG_PREEMPH, .SG_MEL_FLOOR, .SG_REF, .SG_MIN_VALUE] : List Reg)
    ++ ([.SG_DB_RANGE] : List Reg)

/-- The registers the host can only read (R32). -/
def roRegs : List Reg :=
  ([.ID, .HWCFG, .ERR_CODE, .PLAN_CUR_N, .PLAN_M, .PLAN_OBUF, .SG_OUT_ROWS, .SG_OUT_FRAMES] : List Reg)
    ++ ([.SG_COMP_FRAMES] : List Reg)

/-! ## Rounding -/

/-- From this many units on, a value rounds to an infinity: the midpoint of the largest finite value and the
next power of two. -/
def overflowUnits : Nat := (2 ^ 54 - 1) * 2 ^ 2044

/-- `r` is the binary64 value nearest to num/den units of 2^-1074, ties to even (R10): an infinity of num's sign
from the overflow midpoint on; otherwise a finite value no other finite value is nearer than, with an even
fraction when another one is as near. -/
def NearestEven (num : Int) (den : Nat) (r : F64) : Prop :=
  if (overflowUnits * den : Int) ≤ |num| then
    fisInf r = true ∧ fsign r = decide (num < 0)
  else
    fisFinite r = true ∧
      ∀ c : F64, fisFinite c = true →
        |funits r * den - num| ≤ |funits c * den - num| ∧
        (|funits c * den - num| = |funits r * den - num| → funits c ≠ funits r →
          ffrac r % 2 = 0)

/-! ## The datapaths in exact arithmetic (R180) -/

/-- Exact arithmetic on real and complex numbers. -/
noncomputable def exactArith : CArith ℝ ℂ :=
  { rzero := 0, ofReal := fun x => ⟨x, 0⟩, rmul := fun x b => ⟨x * b.re, x * b.im⟩,
    zero := 0, add := fun a b => a + b, sub := fun a b => a - b, mul := fun a b => a * b,
    conj := fun a => (starRingEnd ℂ) a, rotNegI := fun a => -Complex.I * a,
    rotPosI := fun a => Complex.I * a, divNat := fun a n => a / (n : ℂ) }

/-- exp(-2*pi*i*t/n), the exact twiddle (R161). -/
noncomputable def exactTwiddle (n t : Nat) : ℂ :=
  Complex.exp (-2 * Real.pi * Complex.I * t / n)

/-- The exact twiddle table of length n. -/
noncomputable def exactTw (n : Nat) : List ℂ := (List.range n).map (exactTwiddle n)

/-- The exact chirp W[j] = exp(-i*pi*j^2/n), j < n (R171). -/
noncomputable def exactChirp (n : Nat) : List ℂ :=
  (List.range n).map (fun j => Complex.exp (-Real.pi * Complex.I * (j : ℂ) ^ 2 / n))

/-- The DFT X[k] = sum over j of x[j]*exp(-2*pi*i*j*k/n) (R20, R180). -/
noncomputable def exactDft (n : Nat) (x : List ℂ) : List ℂ :=
  (List.range n).map (fun k =>
    ∑ j ∈ Finset.range n, x.getD j 0 * Complex.exp (-2 * Real.pi * Complex.I * j * k / n))

/-- The inverse DFT (1/n) * sum over j of x[j]*exp(+2*pi*i*j*k/n) (R180). -/
noncomputable def exactInvDft (n : Nat) (x : List ℂ) : List ℂ :=
  (List.range n).map (fun k =>
    (∑ j ∈ Finset.range n, x.getD j 0 * Complex.exp (2 * Real.pi * Complex.I * j * k / n)) / n)

end Sys2Proof.Machine
end

