-- ==== Sys2Proof/Certificates/Slice0/Obligations.lean ====
section
/-! DEFINITION. The statements for the provers, from the numbered rules of spec/. -/

open Sys2Proof Sys2Proof.Machine

/-! ## Encoding -/

/-- R112: a word decodes to a command exactly when it is that command's word, and the words are those of R112's
map, all 64 bits fixed. -/
def Obligations.DecodeIsTheInverseOfEncode : Prop :=
  (∀ (w : Word) (i : Instr), decode w = .ok i ↔ w = encode i) ∧
  (∀ (i : Instr) (rest : List Byte),
    decodeBytes (wordBytes (encode i) ++ rest) = .ok (i, rest)) ∧
  encode .nop = 0x0000000000000000#64 ∧ encode .plan = 0x0000000000000001#64 ∧
  encode .fftFwd = 0x0000000000000010#64 ∧ encode .fftReal = 0x0000000000000011#64 ∧
  encode .fftInv = 0x0000000000000012#64 ∧ encode .winGen = 0x0000000000000020#64 ∧
  encode .melBuild = 0x0000000000000030#64 ∧ encode .spectrogram = 0x0000000000000040#64

/-- R112, V-CTL-3: words written out from the table decode to their commands, and neighbours are illegal. -/
def Obligations.SampleWordsDecode : Prop :=
  decode 0x0000000000000000#64 = .ok .nop ∧ decode 0x0000000000000011#64 = .ok .fftReal ∧
  decode 0x0000000000000020#64 = .ok .winGen ∧ decode 0x0000000000000030#64 = .ok .melBuild ∧
  decode 0x0000000000000040#64 = .ok .spectrogram ∧
  decode 0x0000000000000100#64 = .error .reservedBits ∧
  decode 0x8000000000000010#64 = .error .reservedBits ∧
  decode 0x0000000000000013#64 = .error (.unknownOpcode 0x13)

/-- R111, R114: an accepted word with a reserved bit set or an unlisted opcode fails with E_ILLEGAL_CMD and has
no other effect. -/
def Obligations.IllegalWordFailsAndDoesNothingElse : Prop :=
  ∀ s : State, turn s = .engine →
    (s.cmd.extractLsb' 8 56 ≠ 0 ∨
      s.cmd.extractLsb' 0 8 ∉
        ([0x00, 0x01, 0x10, 0x11, 0x12, 0x20, 0x30, 0x40] : List (BitVec 8))) →
    ∃ t, step s = .next t ∧ FailedWith s t 0x01

/-! ## Steps -/

/-- R111: when the engine has the turn and the accepted word decodes to a command, the step is that command's
meaning; and so is the first step after a word is accepted. -/
def Obligations.StepRunsTheDecodedCommand : Prop :=
  (∀ (s : State) (i : Instr), turn s = .engine → decode s.cmd = .ok i → step s = exec i s) ∧
  (∀ (s : State) (i : Instr),
    step (s.withFetchWord 64 (encode i).toNat) = exec i (s.acceptNow (encode i)))

/-- R116: a host write of a word to CMD while BUSY = 0 is accepted in one step. -/
def Obligations.CmdWriteIsAcceptedWhenIdle : Prop :=
  ∀ (s : State) (w : Word) (rest : List HostOp),
    s.rstN = true → s.status.busy = false → s.held = none → s.host = regWrite .CMD w :: rest →
    ∃ t, step s = .next t ∧
      t.status = { s.status with busy := true, done := false, err := false } ∧
      t.errCode = { code := 0, opcode := 0 } ∧ t.snap = s.cfg ∧ t.cmd = w ∧
      t.host = rest ∧ t.resp = some .writeOk ∧
      t.cfg = s.cfg ∧ t.irqEn = s.irqEn ∧ t.rstN = true ∧ t.params = s.params ∧ t.held = none ∧
      t.mem = s.mem ∧ PlanKept s t ∧ ShapeKept s t

/-- R115: a host write of a word to CMD while BUSY = 1 sets CMD_OVERRUN and has no other effect; the word is
discarded. The bus answers OK (R89), and the model's own latency counter (log entry 5) is left free. -/
def Obligations.CmdWriteIsRejectedWhileBusy : Prop :=
  ∀ (s : State) (w : Word) (rest : List HostOp),
    turn s = .host → s.rstN = true → s.status.busy = true → s.host = regWrite .CMD w :: rest →
    ∃ k, step s = .next { s with
      status := { s.status with cmdOverrun := true }
      host := rest, latency := k, resp := some .writeOk }

/-- R362: a running command completes, successfully or with an error, after a finite number of steps, however
long its latency is (log entry 5); it is cut short only by a reset the host asks for (R350) and by the model's
fault at a DMEM word that nothing has written (R99, log entry 1). -/
def Obligations.RunningCommandCompletesInFinitelyManySteps : Prop :=
  ∀ s : State, s.rstN = true → s.status.busy = true →
    ∃ k, k ≤ s.latency + 1 ∧
      ((∃ t, Host.Core.run Sys2Proof.core k s = .next t ∧ t.status.busy = false) ∨
        Host.Core.run Sys2Proof.core k s = .fault Fault.unwrittenRead)

/-! ## The commands' results -/

/-- R300: NOP completes and changes nothing else. -/
def Obligations.NopOnlyCompletes : Prop :=
  ∀ s : State, ∃ t, exec .nop s = .next t ∧ Succeeded s t ∧ BytesKept s t ∧ PlanKept s t ∧
    ShapeKept s t ∧ HostSideKept s t

/-- R141: a PLAN whose length passes R145 installs the plan of that length and shows it. -/
def Obligations.PlanInstallsThePlan : Prop :=
  ∀ s : State, s.params.Legal → checkPlanLength s.params s.snap.planN.toNat = none →
    ∃ t, exec .plan s = .next t ∧ Succeeded s t ∧
      t.plan = some (buildPlan s.snap.planN.toNat) ∧
      t.planCurN = s.snap.planN ∧
      t.planM.toNat = (buildPlan s.snap.planN.toNat).innerLen ∧
      t.planObuf.toNat = (buildPlan s.snap.planN.toNat).obuf ∧
      t.status.planValid = true ∧ t.status.planBs = !(isPow2 s.snap.planN.toNat) ∧
      BytesKept s t ∧ ShapeKept s t ∧ HostSideKept s t

/-- R44, R140, R170: the kind of a plan follows is_pow2(N); a power-of-two plan has PLAN_M 0 and PLAN_OBUF 2N; a
Bluestein plan has PLAN_M the least power of two that is at least 2N-1, and PLAN_OBUF 2M. -/
def Obligations.PlanGeometryFollowsTheLength : Prop :=
  ∀ n : Nat, 1 < n →
    ((∃ p, n = 2 ^ p) →
      (buildPlan n).isBs = false ∧ (buildPlan n).innerLen = 0 ∧ (buildPlan n).obuf = 2 * n) ∧
    ((¬ ∃ p, n = 2 ^ p) →
      (buildPlan n).isBs = true ∧ (buildPlan n).obuf = 2 * (buildPlan n).innerLen ∧
      (∃ p, (buildPlan n).innerLen = 2 ^ p) ∧ 2 * n - 1 ≤ (buildPlan n).innerLen ∧
      ∀ p, 2 * n - 1 ≤ 2 ^ p → (buildPlan n).innerLen ≤ 2 ^ p)

/-- R145: PLAN fails with E_INVALID_LENGTH for N ≤ 1, with E_CAPACITY when N, or the inner length of a Bluestein
plan, exceeds 2^PLAN_MAX_LOG2, and with no error otherwise. -/
def Obligations.PlanLengthErrorsInOrder : Prop :=
  ∀ (s : State) (n : Nat), n = s.snap.planN.toNat →
    (n ≤ 1 → ∃ t, exec .plan s = .next t ∧ FailedWith s t 0x03) ∧
    (1 < n → isPow2 n = true → 2 ^ s.params.planMaxLog2 < n →
      ∃ t, exec .plan s = .next t ∧ FailedWith s t 0x04) ∧
    (1 < n → isPow2 n = false → 2 ^ s.params.planMaxLog2 < nextPow2 (2 * n - 1) →
      ∃ t, exec .plan s = .next t ∧ FailedWith s t 0x04) ∧
    (1 < n → (isPow2 n = true → n ≤ 2 ^ s.params.planMaxLog2) →
      (isPow2 n = false → nextPow2 (2 * n - 1) ≤ 2 ^ s.params.planMaxLog2) →
      ∃ t, exec .plan s = .next t ∧ Succeeded s t)

/-- R142, R175: FFT_FWD writes the N complex bins of its plan's forward transform to the 2N words at FFT_DST and
nothing else, whatever PLAN_OBUF is. -/
def Obligations.FftFwdWritesTheForwardTransform : Prop :=
  ∀ (s : State) (p : Plan) (x : List C64),
    s.plan = some p → commandError .fftFwd s = none →
    cRead s.mem s.snap.fftSrc.toNat p.pn = some x →
    ∃ t, exec .fftFwd s = .next t ∧
      (∀ k < p.pn,
        t.mem.readWord (s.snap.fftDst.toNat + 2 * k)
          = some (settleNaN (s.draws + 2 * k) ((planFwd p x).getD k czero).re) ∧
        t.mem.readWord (s.snap.fftDst.toNat + 2 * k + 1)
          = some (settleNaN (s.draws + (2 * k + 1)) ((planFwd p x).getD k czero).im)) ∧
      BytesKeptOutside s t { start := s.snap.fftDst.toNat, len := 2 * p.pn } ∧
      Succeeded s t ∧ PlanKept s t ∧ ShapeKept s t ∧ HostSideKept s t

/-- R143: FFT_REAL reads N real words at FFT_SRC and writes the N complex bins of its plan's real transform. -/
def Obligations.FftRealWritesTheRealTransform : Prop :=
  ∀ (s : State) (p : Plan) (x : List F64),
    s.plan = some p → commandError .fftReal s = none →
    memRead s.mem s.snap.fftSrc.toNat p.pn = some x →
    ∃ t, exec .fftReal s = .next t ∧
      (∀ k < p.pn,
        t.mem.readWord (s.snap.fftDst.toNat + 2 * k)
          = some (settleNaN (s.draws + 2 * k) ((planReal p x).getD k czero).re) ∧
        t.mem.readWord (s.snap.fftDst.toNat + 2 * k + 1)
          = some (settleNaN (s.draws + (2 * k + 1)) ((planReal p x).getD k czero).im)) ∧
      BytesKeptOutside s t { start := s.snap.fftDst.toNat, len := 2 * p.pn } ∧
      Succeeded s t ∧ PlanKept s t ∧ ShapeKept s t ∧ HostSideKept s t

/-- R144: FFT_INV writes the N complex values of its plan's inverse transform. -/
def Obligations.FftInvWritesTheInverseTransform : Prop :=
  ∀ (s : State) (p : Plan) (x : List C64),
    s.plan = some p → commandError .fftInv s = none →
    cRead s.mem s.snap.fftSrc.toNat p.pn = some x →
    ∃ t, exec .fftInv s = .next t ∧
      (∀ k < p.pn,
        t.mem.readWord (s.snap.fftDst.toNat + 2 * k)
          = some (settleNaN (s.draws + 2 * k) ((planInv p x).getD k czero).re) ∧
        t.mem.readWord (s.snap.fftDst.toNat + 2 * k + 1)
          = some (settleNaN (s.draws + (2 * k + 1)) ((planInv p x).getD k czero).im)) ∧
      BytesKeptOutside s t { start := s.snap.fftDst.toNat, len := 2 * p.pn } ∧
      Succeeded s t ∧ PlanKept s t ∧ ShapeKept s t ∧ HostSideKept s t

/-- R201, R204, R206: WIN_GEN writes nothing for length 0, 1.0 for length 1, and the window values of R202 to R205
otherwise; a boxcar is 1.0 everywhere. -/
def Obligations.WinGenWritesTheWindow : Prop :=
  ∀ (s : State) (n kind : Nat), n = s.snap.winLen.toNat → kind = winKind s.snap →
    commandError .winGen s = none →
    ∃ t, exec .winGen s = .next t ∧
      (n = 1 → t.mem.readWord s.snap.winDst.toNat = some fone) ∧
      (kind = 0 → ∀ i < n, t.mem.readWord (s.snap.winDst.toNat + i) = some fone) ∧
      (2 ≤ n → ∀ i < n, t.mem.readWord (s.snap.winDst.toNat + i)
        = some (settleNaN (s.draws + i)
            (winValue kind i (if winPeriodic s.snap then n + 1 else n)))) ∧
      BytesKeptOutside s t { start := s.snap.winDst.toNat, len := n } ∧
      Succeeded s t ∧ PlanKept s t ∧ ShapeKept s t ∧ HostSideKept s t

/-- R220, R221: MEL_BUILD writes the weight of filter m at bin f to word MEL_DST + m*NB + f. -/
def Obligations.MelBuildWritesTheMatrix : Prop :=
  ∀ (s : State) (nb nf : Nat), nb = s.snap.melNbins.toNat → nf = s.snap.melNfilt.toNat →
    commandError .melBuild s = none →
    ∃ t, exec .melBuild s = .next t ∧
      (∀ m < nf, ∀ f < nb, t.mem.readWord (s.snap.melDst.toNat + m * nb + f)
        = some (settleNaN (s.draws + (m * nb + f))
            (melWeight (melNorm s.snap) (melPoints s.snap) (melBins s.snap) m f))) ∧
      BytesKeptOutside s t { start := s.snap.melDst.toNat, len := nf * nb } ∧
      Succeeded s t ∧ PlanKept s t ∧ ShapeKept s t ∧ HostSideKept s t

/-- R268, R269, R270: SPECTROGRAM writes Y[r][t] at word OUT + r*T_out + t, or OUT + t*R + r when transposed, two
words a value when the output is complex, and reports R, T_out and T_comp. -/
def Obligations.SpectrogramWritesItsOutput : Prop :=
  ∀ (s : State) (p : Plan) (o : SgOps) (x win mel : List F64), s.params.Legal →
    s.plan = some p → o = sgOps s.snap → commandError .spectrogram s = none →
    memRead s.mem o.wa o.len = some x → memRead s.mem o.wina o.fl = some win →
    sgReadMel s.mem o = some mel →
    ∃ t, exec .spectrogram s = .next t ∧
      (∀ r < sgRows o, ∀ f < sgOutCount o, ∀ pos,
        pos = (if o.transpose then f * sgRows o + r else r * sgOutCount o + f) →
        (o.powerEn = true →
          t.mem.readWord (o.out + pos) = some (settleNaN (s.draws + pos)
            (((realColumns s.params.powerExpRule o p x win mel).getD f []).getD r fzero))) ∧
        (o.powerEn = false →
          t.mem.readWord (o.out + 2 * pos) = some (settleNaN (s.draws + 2 * pos)
            (((complexColumns o p x win).getD f []).getD r czero).re) ∧
          t.mem.readWord (o.out + 2 * pos + 1) = some (settleNaN (s.draws + (2 * pos + 1))
            (((complexColumns o p x win).getD f []).getD r czero).im))) ∧
      t.sgOutRows.toNat = sgRows o ∧ t.sgOutFrames.toNat = sgOutCount o ∧
      t.sgCompFrames.toNat = sgCompCount o ∧
      BytesKeptOutside s t (sgWrites o) ∧ Succeeded s t ∧ PlanKept s t ∧ HostSideKept s t

/-- R117, R119: a command, any of the eight, that passes its checks and whose operands have all been written
completes successfully. -/
def Obligations.EveryCommandCompletesOnWrittenOperands : Prop :=
  ∀ (i : Instr) (s : State), commandError i s = none → operandsWritten i s →
    ∃ t, exec i s = .next t ∧ Succeeded s t

/-- R312: a command whose checks find an error completes with that error's code and its opcode, and changes
nothing else. -/
def Obligations.FailedCommandChangesNothingElse : Prop :=
  ∀ (i : Instr) (s : State) (e : Err), commandError i s = some e →
    ∃ t, exec i s = .next t ∧ FailedWith s t (errNumber e)

/-- R99: a command stops exactly when it passes its checks and reads a DMEM word that nothing has written since
reset. -/
def Obligations.CommandFaultsExactlyOnUnwrittenOperands : Prop :=
  ∀ (i : Instr) (s : State),
    exec i s = .fault .unwrittenRead ↔ commandError i s = none ∧ ¬ operandsWritten i s

/-! ## Frames -/

/-- R81, R175: when a command answers a next state, every DMEM byte outside the words its rule writes reads as
before; for NOP and PLAN that is all of DMEM. -/
def Obligations.CommandsKeepTheOtherBytes : Prop :=
  ∀ (i : Instr) (s t : State), exec i s = .next t →
    BytesKeptOutside s t (writeSpan i s) ∧ (i = .nop ∨ i = .plan → BytesKept s t)

/-- R50, R270, R312: when a command answers a next state, only PLAN has changed the plan or the registers that show
it, only SPECTROGRAM its result registers, and none the host's side or CMD_OVERRUN. -/
def Obligations.CommandsKeepTheOtherRegisters : Prop :=
  ∀ (i : Instr) (s t : State), exec i s = .next t →
    HostSideKept s t ∧ t.status.cmdOverrun = s.status.cmdOverrun ∧
    (i ≠ .plan → PlanKept s t) ∧ (i ≠ .spectrogram → ShapeKept s t) ∧ CommandOver t

/-! ## Error orders (R313) -/

/-- R142 to R144: the three transforms report E_NO_PLAN, then E_RANGE, then E_ALIAS; the write range is PLAN_OBUF
words. -/
def Obligations.TransformErrorsInOrder : Prop :=
  ∀ (i : Instr) (s : State), i = .fftFwd ∨ i = .fftReal ∨ i = .fftInv →
    ∀ src dst words obuf : Nat, src = s.snap.fftSrc.toNat → dst = s.snap.fftDst.toNat →
      obuf = s.planObuf.toNat → words = (if i = .fftReal then planLen s else 2 * planLen s) →
    (s.plan = none → ∃ t, exec i s = .next t ∧ FailedWith s t 0x02) ∧
    (s.plan ≠ none →
      (0 < words ∧ dmemWords s.params < src + words) ∨
        (0 < obuf ∧ dmemWords s.params < dst + obuf) →
      ∃ t, exec i s = .next t ∧ FailedWith s t 0x05) ∧
    (s.plan ≠ none → (0 < words → src + words ≤ dmemWords s.params) →
      (0 < obuf → dst + obuf ≤ dmemWords s.params) →
      (∃ w, (src ≤ w ∧ w < src + words) ∧ (dst ≤ w ∧ w < dst + obuf)) →
      ∃ t, exec i s = .next t ∧ FailedWith s t 0x06) ∧
    (s.plan ≠ none → (0 < words → src + words ≤ dmemWords s.params) →
      (0 < obuf → dst + obuf ≤ dmemWords s.params) →
      (¬ ∃ w, (src ≤ w ∧ w < src + words) ∧ (dst ≤ w ∧ w < dst + obuf)) →
      commandError i s = none)

/-- R201, R221: WIN_GEN reports E_UNKNOWN_WINDOW, then E_RANGE; MEL_BUILD reports E_INVALID_NORM,
E_INVALID_MEL_SCALE, E_MEL_DIMS, then E_RANGE. -/
def Obligations.GeneratorErrorsInOrder : Prop :=
  ∀ s : State,
    (commandError .winGen s =
      if 3 < winKind s.snap then some .unknownWindow
      else if 0 < s.snap.winLen.toNat ∧
          dmemWords s.params < s.snap.winDst.toNat + s.snap.winLen.toNat then some .range
      else none) ∧
    (commandError .melBuild s =
      if 1 < melNorm s.snap then some .invalidNorm
      else if 2 < melScale s.snap then some .invalidMelScale
      else if s.snap.melNfilt.toNat < 1 ∨ s.snap.melNbins.toNat < 2 then some .melDims
      else if dmemWords s.params <
          s.snap.melDst.toNat + s.snap.melNfilt.toNat * s.snap.melNbins.toNat then some .range
      else none)

/-- R252, R254: SPECTROGRAM reports the first of its eleven configuration checks that fails, then E_RANGE, then
E_ALIAS. -/
def Obligations.SpectrogramErrorsInOrder : Prop :=
  ∀ (s : State) (o : SgOps), o = sgOps s.snap →
    commandError .spectrogram s =
      if o.fl = 0 ∨ o.nfft < o.fl then some .frameLen
      else if o.winl ≠ o.fl then some .windowLen
      else if o.hop = 0 then some .hop
      else if o.powerEn = false ∧ o.melEn = true then some .complexMel
      else if o.padMode ≠ 0 then some .notImplemented
      else if 3 < o.logMel then some .logMelCode
      else if o.powerEn = true ∧ o.logMel = 3 ∧ feq o.pw fone = false ∧ feq o.pw ftwo = false then
        some .dbPower
      else if o.powerEn = true ∧ o.logMel = 3 ∧ (flt fzero o.ref = false ∨ flt fzero o.minv = false
          ∨ (o.dbRangeEn = true ∧ flt fzero o.dbr = false)) then some .dbParam
      else if s.plan = none then some .noPlan
      else if planLen s ≠ o.nfft then some .planMismatch
      else if o.melEn = true ∧ (o.mr = 0 ∨ o.mc ≠ sgBins o) then some .melMismatch
      else if ∃ iv ∈ sgReads o ++ [sgWrites o],
          0 < iv.len ∧ dmemWords s.params < iv.start + iv.len then some .range
      else if ∃ iv ∈ sgReads o, 0 < iv.len ∧ 0 < (sgWrites o).len ∧
          iv.start < (sgWrites o).start + (sgWrites o).len ∧
          (sgWrites o).start < iv.start + iv.len then some .aliasing
      else none

/-- R90, R91: the range check is about a word beyond DMEM, the alias check about a shared word; an empty interval
does neither. -/
def Obligations.BufferChecksAreAboutWords : Prop :=
  (∀ (p : Params) (i : Interval), outOfRange p i = true ↔
    ∃ w, i.start ≤ w ∧ w < i.start + i.len ∧ dmemWords p ≤ w) ∧
  (∀ i j : Interval, overlaps i j = true ↔
    ∃ w, (i.start ≤ w ∧ w < i.start + i.len) ∧ (j.start ≤ w ∧ w < j.start + j.len))

/-! ## DMEM and the bus -/

/-- R82: byte i of a written word holds bits [8i+7:8i], at host byte address DMEM_BASE + 8*w + i. -/
def Obligations.WordsAreLittleEndian : Prop :=
  ∀ (m : Memory) (w : Nat) (v : Word), ∀ i < 8,
    (m.writeWord w v).readByte (0x00100000 + 8 * w + i) = some (v.extractLsb' (8 * i) 8) ∧
    (m.writeWord w v).readWord w = some v

/-- R80, R87: a host write of DMEM word w is what a host read of that word then returns, and every other word
reads as before. -/
def Obligations.HostDmemWriteIsReadBack : Prop :=
  ∀ (s : State) (w : Nat) (v : Word), w < dmemWords s.params →
    ∃ t, busAccess { addr := byteAddr w 0, size := 8, kind := .write v } s = .next t ∧
      t = { s with mem := t.mem, resp := some .writeOk } ∧
      busAccess { addr := byteAddr w 0, size := 8, kind := .read } t
        = .next { t with resp := some (.readData v) } ∧
      ∀ w', w' ≠ w → t.mem.readWord w' = s.mem.readWord w'

/-- R84, R85, R86: an access that is not a whole aligned 64-bit word, or outside both regions, is answered with a
bus error and changes no state; an offset of the register block that names no register reads 0 and ignores
writes. -/
def Obligations.BadHostAccessIsABusError : Prop :=
  ∀ (s : State) (t : BusTxn),
    ((t.size ≠ 8 ∨ t.addr % 8 ≠ 0 ∨
        (0xFFF < t.addr ∧ (t.addr < 0x00100000 ∨ 0x00100000 + 8 * dmemWords s.params ≤ t.addr))) →
      busAccess t s = .next { s with resp := some .busError }) ∧
    (t.size = 8 → t.addr % 8 = 0 → t.addr ≤ 0xFFF → (∀ r, regOffset r ≠ t.addr) →
      (t.kind = .read → busAccess t s = .next { s with resp := some (.readData 0) }) ∧
      (∀ w, t.kind = .write w → busAccess t s = .next { s with resp := some .writeOk }))

/-- R88: an access to the DMEM window while BUSY = 1 is held, without effect or answer; while it is held and the
command runs on, only the engine or reset moves; once BUSY = 0 it is performed. -/
def Obligations.DmemAccessIsHeldWhileBusy : Prop :=
  (∀ (s : State) (t : BusTxn) (rest : List HostOp), turn s = .host → s.rstN = true →
    s.status.busy = true → s.host = .bus t :: rest → inDmemWindow s.params t.addr = true →
    ∃ k, step s = .next { s with host := rest, latency := k, held := some t }) ∧
  (∀ (s : State) (t : BusTxn), s.rstN = true → s.status.busy = true → s.held = some t →
    (∀ level rest, s.host ≠ .rstN level :: rest) → turn s = .engine) ∧
  (∀ (s : State) (t : BusTxn), s.rstN = true → s.status.busy = false → s.held = some t →
    step s = busAccess t { s with held := none })

/-! ## Registers -/

/-- R39, R40, R46, R47, R49: a configuration register reads back the bits it keeps: bits 31:0 of a u32 register, all
of an f64 register, the bits that are not reserved of WIN_CFG, MEL_CFG, SG_CFG and CTRL. -/
def Obligations.ConfigurationRegistersReadBack : Prop :=
  ∀ (s : State) (w : Word),
    (∀ r ∈ u32Regs, readReg (writeReg r w s) r = w &&& 0x00000000FFFFFFFF) ∧
    (∀ r ∈ f64Regs, readReg (writeReg r w s) r = w) ∧
    readReg (writeReg .WIN_CFG w s) .WIN_CFG = w &&& 0x1F ∧
    readReg (writeReg .MEL_CFG w s) .MEL_CFG = w &&& 0x1FF ∧
    readReg (writeReg .SG_CFG w s) .SG_CFG = w &&& 0x1FFFF ∧
    readReg (writeReg .CTRL w s) .CTRL = w &&& 0x1

/-- R32: a register write changes what no other register reads (CMD, which runs commands, apart), a read-only
register ignores it, and no two registers share an offset. -/
def Obligations.RegisterWriteChangesOnlyThatRegister : Prop :=
  (∀ (s : State) (w : Word) (r r' : Reg), r ≠ .CMD → r' ≠ r →
    readReg (writeReg r w s) r' = readReg s r') ∧
  (∀ (s : State) (w : Word), ∀ r ∈ roRegs, writeReg r w s = s) ∧
  (∀ r r' : Reg, regOffset r = regOffset r' → r = r') ∧
  (∀ r : Reg, regOffset r % 8 = 0 ∧ regOffset r ≤ 0xFFF)

/-- R42: a host write of STATUS clears DONE, ERR and CMD_OVERRUN where it has a 1 in bits 1, 2 and 3, and changes
nothing else; bits 63:6 read 0. -/
def Obligations.StatusIsWriteOneToClear : Prop :=
  ∀ (s : State) (w : Word),
    readReg (writeReg .STATUS w s) .STATUS = readReg s .STATUS &&& ~~~(w &&& 0xE) ∧
    writeReg .STATUS w s = { s with status := (writeReg .STATUS w s).status } ∧
    readReg s .STATUS &&& 0xFFFFFFFFFFFFFFC0 = 0

/-- R53, R320, R321: irq is CTRL.IRQ_EN AND STATUS.DONE as the registers read; acceptance lowers it, and
CMD_OVERRUN does not touch it. -/
def Obligations.IrqIsEnableAndDone : Prop :=
  ∀ s : State,
    (irq s = true ↔ (readReg s .CTRL).getLsbD 0 = true ∧ (readReg s .STATUS).getLsbD 1 = true) ∧
    (∀ w, s.status.busy = false → irq (writeReg .CMD w s) = false) ∧
    (∀ w, s.status.busy = true → irq (writeReg .CMD w s) = irq s)

/-- R33, R34, R351: the registers after reset: ID and HWCFG are constants, every other register reads 0, no plan is
valid, no command runs, irq is low, and no DMEM word has a value (R356). -/
def Obligations.ResetGivesTheResetValues : Prop :=
  ∀ p : Params, p.Legal →
    readReg (State.resetOf p) .ID = 0x0000000753544646 ∧
    (readReg (State.resetOf p) .HWCFG).toNat = p.planMaxLog2 * 256 + p.dmemAw ∧
    (∀ r, r ≠ .ID → r ≠ .HWCFG → readReg (State.resetOf p) r = 0) ∧
    (State.resetOf p).plan = none ∧ (State.resetOf p).status.busy = false ∧
    irq (State.resetOf p) = false ∧
    (∀ w, (State.resetOf p).mem.readWord w = none)

/-! ## Reset -/

/-- R350: when rst_n falls, a running command is abandoned without DONE, ERR or a DMEM write, a held access is
answered with a bus error, and while rst_n = 0 every access is. -/
def Obligations.ResetAbandonsTheCommand : Prop :=
  (∀ (s : State) (rest : List HostOp), s.rstN = true → turn s = .host →
    (s.status.busy = true ∨ s.held = none) → s.host = .rstN false :: rest →
    ∃ t, step s = .next t ∧ t.rstN = false ∧ t.status = { s.status with busy := false } ∧
      t.held = none ∧ t.host = rest ∧
      (s.held ≠ none → t.resp = some .busError) ∧ (s.held = none → t.resp = s.resp) ∧
      t.mem = s.mem ∧ t.errCode = s.errCode) ∧
  (∀ (s : State) (t : BusTxn) (rest : List HostOp), s.rstN = false → s.host = .bus t :: rest →
    step s = .next { s with host := rest, resp := some .busError })

/-- R350, R351, R353, R356: when rst_n returns to 1 every state element holds its reset value, whatever it held
before: in particular no plan is valid and no DMEM word has a value. -/
def Obligations.ReleasedResetGivesTheResetState : Prop :=
  ∀ (s : State) (rest : List HostOp), s.rstN = false → s.host = .rstN true :: rest →
    step s = .next { State.resetOf s.params with host := rest, resp := s.resp, draws := s.draws }

/-! ## The invariant and the whole-machine rules -/

/-- The machine right after reset satisfies the invariant. -/
def Obligations.ResetSatisfiesTheInvariant : Prop :=
  (∀ p : Params, p.Legal → (State.resetOf p).Inv) ∧ State.reset.Inv

/-- Every step keeps the invariant: DMEM stays canonical and inside its window, the plan stays one that PLAN
builds and the registers show it, BUSY = 0 leaves nothing of a command, BUSY = 1 shows no completion, and
ERR_CODE stays a listed code. -/
def Obligations.EveryStepKeepsTheInvariant : Prop :=
  ∀ s t : State, s.Inv → step s = .next t → t.Inv

/-- R353: only a successful PLAN replaces the plan, and only reset takes it away. -/
def Obligations.PlanChangesOnlyByPlanOrReset : Prop :=
  ∀ s t : State, step s = .next t →
    t.plan = s.plan ∨
    (turn s = .engine ∧ decode s.cmd = .ok .plan ∧ commandError .plan s = none ∧
      t.plan = some (buildPlan s.snap.planN.toNat)) ∨
    (ReleasesReset s ∧ t.plan = none)

/-- R42: DONE and ERR change only at acceptance (cleared), at completion (set) and by a STATUS write with a 1 in
their bit (cleared); CMD_OVERRUN only by a rejected CMD write (set) and by such a STATUS write; or at reset. -/
def Obligations.FlagsChangeOnlyAsTheRulesSay : Prop :=
  ∀ s t : State, s.Inv → step s = .next t →
    (t.status.done = s.status.done ∨ (turn s = .engine ∧ t.status.done = true) ∨
      (t.status.done = false ∧
        ((∃ w, ServesWrite s .CMD w ∧ s.status.busy = false) ∨
          (∃ w, ServesWrite s .STATUS w ∧ w.getLsbD 1 = true) ∨ ReleasesReset s))) ∧
    (t.status.err = s.status.err ∨ (turn s = .engine ∧ t.status.err = true) ∨
      (t.status.err = false ∧
        ((∃ w, ServesWrite s .CMD w ∧ s.status.busy = false) ∨
          (∃ w, ServesWrite s .STATUS w ∧ w.getLsbD 2 = true) ∨ ReleasesReset s))) ∧
    (t.status.cmdOverrun = s.status.cmdOverrun ∨
      (t.status.cmdOverrun = true ∧ ∃ w, ServesWrite s .CMD w ∧ s.status.busy = true) ∨
      (t.status.cmdOverrun = false ∧
        ((∃ w, ServesWrite s .STATUS w ∧ w.getLsbD 3 = true) ∨ ReleasesReset s)))

/-- R363: the result registers, the plan bits and a nonzero ERR_CODE change only in a command's completion step,
or at reset; a step of the host leaves them, but that acceptance clears ERR_CODE. -/
def Obligations.ResultRegistersChangeOnlyAtCompletion : Prop :=
  ∀ s t : State, step s = .next t → turn s = .host → ¬ ReleasesReset s →
    PlanKept s t ∧ ShapeKept s t ∧
    (t.errCode = s.errCode ∨
      (t.errCode = { code := 0, opcode := 0 } ∧ s.status.busy = false ∧ t.status.busy = true))

/-- R365: what the host does with the configuration registers, CTRL, its queue and its held access while a command
runs does not reach the command. -/
def Obligations.HostSideDoesNotReachTheRunningCommand : Prop :=
  ∀ (i : Instr) (s : State) (c : ConfigRegs) (q : Bool) (h : List HostOp) (b : Option BusTxn)
    (r : Option BusResp),
    exec i { s with cfg := c, irqEn := q, host := h, held := b, resp := r } =
      mapNext (fun t => { t with cfg := c, irqEn := q, host := h, held := b, resp := r }) (exec i s)

/-- R92, R274: a command's outcome is a function of its snapshot, the plan, the instance and the DMEM words it
reads: two states that agree on those fail alike, or write the same words and report the same results. -/
def Obligations.OutcomeIsAFunctionOfWhatTheCommandReads : Prop :=
  ∀ (i : Instr) (s s' : State), s'.params = s.params → s'.snap = s.snap → s'.plan = s.plan →
    s'.planObuf = s.planObuf → s'.draws = s.draws →
    (∀ iv ∈ readSpans i s, ∀ k < iv.len,
      s'.mem.readWord (iv.start + k) = s.mem.readWord (iv.start + k)) →
    commandError i s' = commandError i s ∧
    (exec i s = .fault .unwrittenRead ↔ exec i s' = .fault .unwrittenRead) ∧
    ∀ t t', exec i s = .next t → exec i s' = .next t' → commandError i s = none →
      (∀ k < (writeSpan i s).len, t'.mem.readWord ((writeSpan i s).start + k)
        = t.mem.readWord ((writeSpan i s).start + k)) ∧
      t'.plan = t.plan ∧
      (i = .spectrogram → t'.sgOutRows = t.sgOutRows ∧ t'.sgOutFrames = t.sgOutFrames ∧
        t'.sgCompFrames = t.sgCompFrames)

/-! ## binary64 arithmetic -/

/-- R10: +, -, * and / of finite values are rounded to nearest, ties to even; a zero sum is -0.0 only when both
addends are negative zeros. -/
def Obligations.ArithmeticRoundsToNearestEven : Prop :=
  ∀ a b : F64, fisFinite a = true → fisFinite b = true →
    NearestEven (funits a + funits b) 1 (fadd a b) ∧
    NearestEven (funits a - funits b) 1 (fsub a b) ∧
    NearestEven (funits a * funits b) (2 ^ 1074) (fmul a b) ∧
    (fisZero b = false →
      NearestEven ((if fsign b then -funits a else funits a) * 2 ^ 1074) (fmag b) (fdiv a b)) ∧
    (funits a + funits b = 0 → fsign (fadd a b) = (fsign a && fsign b)) ∧
    (fsign (fmul a b) = (fsign a != fsign b))

/-- R10: the square root of a finite value that is not negative is rounded to nearest: no finite value lies
strictly between the exact root and the result's mirror about it. -/
def Obligations.SquareRootRoundsToNearest : Prop :=
  ∀ a : F64, fisFinite a = true → fsign a = false → fisZero a = false →
    fisFinite (fsqrt a) = true ∧ fsign (fsqrt a) = false ∧
    ∀ c : F64, fisFinite c = true → fsign c = false →
      (fmag c < fmag (fsqrt a) →
        (fmag c + fmag (fsqrt a)) ^ 2 ≤ 4 * (fmag a * 2 ^ 1074)) ∧
      (fmag (fsqrt a) < fmag c →
        4 * (fmag a * 2 ^ 1074) ≤ (fmag c + fmag (fsqrt a)) ^ 2)

/-- R9: f64(n) is exact when |n| ≤ 2^53, and the nearest value otherwise. -/
def Obligations.IntegersConvertExactlyOrNearest : Prop :=
  (∀ n : Int, |n| ≤ 2 ^ 53 → fisFinite (f64OfInt n) = true ∧ funits (f64OfInt n) = n * 2 ^ 1074) ∧
  (∀ n : Int, NearestEven (n * 2 ^ 1074) 1 (f64OfInt n)) ∧
  (∀ n : Nat, f64OfNat n = f64OfInt n)

/-- R15: fmax and fmin are NaN when an operand is, and otherwise the larger and the smaller operand, with +0.0
above -0.0; maxseq is fmax folded from the left, so among values that are not NaN it is one that none exceeds. -/
def Obligations.MaxAndMinFollowTheOrder : Prop :=
  (∀ a b : F64,
    ((fisNaN a = true ∨ fisNaN b = true) → fisNaN (fmax a b) = true ∧ fisNaN (fmin a b) = true) ∧
    (fisNaN a = false → fisNaN b = false →
      (fmax a b = a ∨ fmax a b = b) ∧ fle a (fmax a b) = true ∧ fle b (fmax a b) = true ∧
      (fmin a b = a ∨ fmin a b = b) ∧ fle (fmin a b) a = true ∧ fle (fmin a b) b = true ∧
      fmax a b = fmax b a ∧ fmin a b = fmin b a)) ∧
  fmax 0x8000000000000000 fzero = fzero ∧ fmin fzero 0x8000000000000000 = 0x8000000000000000 ∧
  (∀ (v w : F64) (vs : List F64),
    maxseq v [] = v ∧ maxseq v (vs ++ [w]) = fmax (maxseq v vs) w) ∧
  (∀ (v : F64) (vs : List F64), (∀ x ∈ v :: vs, fisNaN x = false) →
    maxseq v vs ∈ v :: vs ∧ ∀ x ∈ v :: vs, fle x (maxseq v vs) = true)

/-- R13: the special values and bounds of the transcendental functions. -/
def Obligations.TranscendentalSpecialValues : Prop :=
  fCos fzero = fone ∧ fCos 0x8000000000000000 = fone ∧
  fSin fzero = fzero ∧ fSin 0x8000000000000000 = 0x8000000000000000 ∧
  fExp fzero = fone ∧ fLn fone = fzero ∧ fLog10 fone = fzero ∧
  (∀ x, fisZero x = true → fLn x = fninf ∧ fLog10 x = fninf) ∧
  (∀ x, flt x fzero = true ∨ fisNaN x = true →
    fisNaN (fLn x) = true ∧ fisNaN (fLog10 x) = true) ∧
  fLn finf = finf ∧ fLog10 finf = finf ∧
  (∀ x y, fisZero y = true → fPow x y = fone) ∧ (∀ y, fPow fone y = fone) ∧
  (∀ y, flt fzero y = true → fPow fzero y = fzero) ∧
  (∀ x, fisNaN x = false → fPow x fone = x) ∧
  (∀ x y, (fisNaN x = true ∧ fisZero y = false) ∨ (fisNaN y = true ∧ x ≠ fone) →
    fisNaN (fPow x y) = true) ∧
  (∀ x, flt fzero x = true → fAtan2 fzero x = fzero) ∧
  (∀ x, fisFinite x = true →
    fle 0xBFF0000000000000 (fCos x) = true ∧ fle (fCos x) fone = true ∧
    fle 0xBFF0000000000000 (fSin x) = true ∧ fle (fSin x) fone = true)

/-- R14: a NaN result is written as a quiet NaN, any quiet NaN can be a draw's, and every other result is written
unchanged. -/
def Obligations.NaNResultsAreQuietNaNs : Prop :=
  (∀ (k : Nat) (v : F64), fisNaN v = false → settleNaN k v = v) ∧
  (∀ (k : Nat) (v : F64), fisNaN v = true →
    fisNaN (settleNaN k v) = true ∧ (settleNaN k v).getLsbD 51 = true) ∧
  (∀ q : F64, fisNaN q = true → q.getLsbD 51 = true → ∃ d, quietNaN d = q)

/-! ## Datapaths -/

/-- R180: in exact arithmetic the power-of-two datapath computes the DFT of any length 2^p > 1, its inverse the
scaled inverse DFT, and the real datapath the DFT of (x[n], 0). -/
def Obligations.PowerOfTwoDatapathIsTheDft : Prop :=
  ∀ (p n : Nat), 1 ≤ p → n = 2 ^ p →
    (∀ x : List ℂ, x.length = n →
      fftP2 exactArith (brevTable n) (exactTw n) x n .fwd = exactDft n x ∧
      invP2 exactArith (brevTable n) (exactTw n) x n = exactInvDft n x) ∧
    (∀ x : List ℝ, x.length = n →
      realP2 exactArith (brevTable n) (exactTw n) x n = exactDft n (x.map exactArith.ofReal))

/-- R180: in exact arithmetic the Bluestein datapath computes the DFT of any length that is not a power of two, its
inverse the scaled inverse DFT, and the real datapath the DFT of (x[n], 0). -/
def Obligations.BluesteinDatapathIsTheDft : Prop :=
  ∀ (n m : Nat) (bf : List ℂ), 3 ≤ n → isPow2 n = false → m = nextPow2 (2 * n - 1) →
    bf = ichirpTransform exactArith n m (brevTable m) (exactTw m) (exactChirp n) →
    (∀ x : List ℂ, x.length = n →
      bsFwd exactArith n m (brevTable m) (exactTw m) (exactChirp n) bf x = exactDft n x ∧
      bsInv exactArith n m (brevTable m) (exactTw m) (exactChirp n) bf x = exactInvDft n x) ∧
    (∀ x : List ℝ, x.length = n →
      bsReal exactArith n m (brevTable m) (exactTw m) (exactChirp n) bf x
        = exactDft n (x.map exactArith.ofReal))

/-- R181: on the power-of-two path FFT_REAL's bins satisfy X[N-k] = conj(X[k]) bit for bit, k = 1..N/2-1. -/
def Obligations.RealTransformIsHermitian : Prop :=
  ∀ (pl : Plan) (brev : List Nat) (tw : List C64) (x : List F64),
    pl.tables = .p2 brev tw → isPow2 pl.pn = true →
    ∀ k, 1 ≤ k → k < pl.pn / 2 →
      (planReal pl x).getD (pl.pn - k) czero = cconj ((planReal pl x).getD k czero)

/-- R160: BREV[i] is the sum over b of i[b]*2^(p-1-b), and reversing twice gives i back. -/
def Obligations.BitReversalTableIsR160 : Prop :=
  ∀ p i : Nat, i < 2 ^ p →
    (brevTable (2 ^ p)).getD i 0
      = ∑ b ∈ Finset.range p, (if i.testBit b then 2 ^ (p - 1 - b) else 0) ∧
    (brevTable (2 ^ p)).getD i 0 < 2 ^ p ∧
    (brevTable (2 ^ p)).getD ((brevTable (2 ^ p)).getD i 0) 0 = i

/-- R272, elementwise part, on the power-of-two path: an all-zero waveform in dB mode, with a finite window and mel
matrix, gives the dB value of mel_floor everywhere. (R272 does not say that the window and the matrix are
finite; a NaN in them would reach the output.) -/
def Obligations.AllZeroWaveformIsConstantInDb : Prop :=
  ∀ (rule : PowerExpRule) (o : SgOps) (x win mel : List F64) (t : Nat),
    isPow2 o.nfft = true → 1 < o.nfft → o.nfft < 2 ^ 32 → 0 < o.fl → o.fl ≤ o.nfft →
    o.logMel = 3 → (o.pw = fone ∨ o.pw = ftwo) → fisFinite o.pre = true →
    flt fzero o.minv = true → fle o.minv o.flo = true →
    (∀ v ∈ x, fisZero v = true) → (∀ v ∈ win, fisFinite v = true) →
    (∀ v ∈ mel, fisFinite v = true) →
    realFrame rule o (buildPlan o.nfft) x win mel t =
      List.replicate (sgRows o)
        (fsub (fmul (dbFactor o.pw) (fLog10 o.flo))
          (fmul (dbFactor o.pw) (fLog10 (fmax o.minv o.ref))))

/-- R203, R205: a hann value is never negative and never NaN, a window of length 2 or more starts with +0.0 (hann
and povey) or 0.54 - 0.45999999999999996 (hamming, V-WIN-3). -/
def Obligations.HannValuesAreNotNegative : Prop :=
  ∀ (n : Nat) (periodic : Bool), 2 ≤ n → n < 2 ^ 32 →
    (∀ i < n, fisNaN (winValue 1 i (windowPeriod periodic n)) = false ∧
      fsign (winValue 1 i (windowPeriod periodic n)) = false) ∧
    winValue 1 0 (windowPeriod periodic n) = fzero ∧
    winValue 2 0 (windowPeriod periodic n) = 0x3FB47AE147AE1480 ∧
    winValue 3 0 (windowPeriod periodic n) = fzero

/-- R228, R229: a triangle of increasing points is +0.0 outside them, between +0.0 and 1.0 everywhere, and 1.0 at
its centre, wherever the differences it takes are finite. -/
def Obligations.MelTriangleHasItsSupportAndPeak : Prop :=
  ∀ x left center right : F64, flt left center = true → flt center right = true →
    fisFinite (fsub center left) = true → fisFinite (fsub right center) = true →
    fisFinite (fsub x left) = true → fisFinite (fsub right x) = true →
    (fle x left = true ∨ fle right x = true → triWeight x left center right = fzero) ∧
    fle fzero (triWeight x left center right) = true ∧
    fle (triWeight x left center right) fone = true ∧
    (x = center → triWeight x left center right = fone)

/-- R256: the frame counts, with HOP ≥ 1: 1 + floor((P - FL)/HOP) and never below 0, clamped up to MINF and down to
MAXF when enabled, and padded to MAXF with DO_PAD; and R271's example of 98 frames. -/
def Obligations.FrameCountsFollowTheFormula : Prop :=
  (∀ o : SgOps, 0 < o.hop →
    let c := if o.fl ≤ sgPadded o then 1 + (sgPadded o - o.fl) / o.hop else 0
    let c := if o.minFramesEn = true ∧ c < o.minf then o.minf else c
    let c := if o.maxFramesEn = true ∧ o.maxf < c then o.maxf else c
    sgCompCount o = c ∧
    sgOutCount o = (if o.maxFramesEn = true ∧ o.doPad = true ∧ c < o.maxf then o.maxf else c) ∧
    sgCompCount o ≤ sgOutCount o) ∧
  (∀ o : SgOps, o.len = 16000 → o.fl = 400 → o.hop = 160 → o.center = false →
    o.minFramesEn = false → o.maxFramesEn = false → sgOutCount o = 98)

/-- R255: reflection leaves the waveform's own indices, mirrors without repeating the edge samples, repeats with
period 2(L-1), and always lands inside; L = 1 reflects to sample 0. -/
def Obligations.ReflectionMirrorsWithoutTheEdge : Prop :=
  (∀ i : Int, reflIndex i 1 = 0) ∧
  ∀ len : Nat, 2 ≤ len →
    (∀ k < len, reflIndex k len = k ∧ reflIndex (-(k : Int)) len = k ∧
      reflIndex ((len : Int) - 1 + k) len = len - 1 - k) ∧
    (∀ i : Int, reflIndex (i + 2 * ((len : Int) - 1)) len = reflIndex i len ∧
      reflIndex i len < len)

/-- R273: after the range clip by a finite dbr > 0, of an output without NaN, every value is at least mx - dbr rounded
once and at most mx, and mx is still among them. -/
def Obligations.DbRangeBoundsTheOutput : Prop :=
  ∀ (dbr v : F64) (vs : List F64) (ys : List (List F64)), fisFinite dbr = true →
    flt fzero dbr = true → ys.flatten = v :: vs → (∀ x ∈ v :: vs, fisNaN x = false) →
    maxseq v vs ∈ (dbRangeClip dbr ys).flatten ∧
    ∀ x ∈ (dbRangeClip dbr ys).flatten,
      fle (fsub (maxseq v vs) dbr) x = true ∧ fle x (maxseq v vs) = true
end

