-- ==== Sys2Proof/Laws/Datapaths.lean ====
section
/-! SUPPORT. The real-input datapaths beside the complex ones: where `rmul x b` is the product with (x, 0), bs_real
is bs_fwd of the samples as complex values (R174); exact arithmetic is such an arithmetic (R180). -/

namespace Sys2Proof.Machine

theorem getD_map_ofReal {R C : Type} (A : CArith R C) (h0 : A.ofReal A.rzero = A.zero) (x : List R)
    (j : Nat) : (x.map A.ofReal).getD j A.zero = A.ofReal (x.getD j A.rzero) := by
  rw [← h0, List.getD_map]

theorem bsReal_eq_bsFwd {R C : Type} (A : CArith R C) (h0 : A.ofReal A.rzero = A.zero)
    (hmul : ∀ x b, A.rmul x b = A.mul (A.ofReal x) b)
    (n m : Nat) (brevM : List Nat) (twM w bf : List C) (x : List R) :
    bsReal A n m brevM twM w bf x = bsFwd A n m brevM twM w bf (x.map A.ofReal) := by
  simp only [bsReal, bsFwd, getD_map_ofReal A h0, hmul]

theorem exactArith_ofReal_rzero : exactArith.ofReal exactArith.rzero = exactArith.zero := rfl

theorem exactArith_rmul (x : ℝ) (b : ℂ) :
    exactArith.rmul x b = exactArith.mul (exactArith.ofReal x) b := by
  apply Complex.ext <;> simp [exactArith]

end Sys2Proof.Machine
end

