-- ==== Sys2Proof/Laws/Memory.lean ====
section
/-! SUPPORT. What the DMEM operations do: a byte reads as it was last written, every other byte is kept, the
canonical form is kept, and the same for words and for the sequences MemRead and MemWrite move. -/

namespace Sys2Proof.Machine

namespace Memory

/-! ## Bytes -/

@[simp] theorem readByte_nil (a : Nat) : Memory.readByte [] a = none := rfl

@[simp] theorem readByte_writeByte_same (m : Memory) (a : Nat) (b : Byte) :
    (m.writeByte a b).readByte a = some b := by
  induction m with
  | nil => simp [writeByte, readByte]
  | cons c cs ih =>
    simp only [writeByte]
    split
    · simp [readByte]
    · split
      · simp [readByte]
      · next h => simp [readByte, ih, Ne.symm h]

theorem readByte_writeByte_other (m : Memory) {a x : Nat} (b : Byte) (h : x ≠ a) :
    (m.writeByte a b).readByte x = m.readByte x := by
  induction m with
  | nil => simp [writeByte, readByte, Ne.symm h]
  | cons c cs ih =>
    simp only [writeByte]
    split
    · simp [readByte, Ne.symm h]
    · split
      · next hc => simp [readByte, ← hc, Ne.symm h]
      · simp [readByte, ih]

theorem mem_writeByte {m : Memory} {a : Nat} {b : Byte} {c : Host.Cell}
    (h : c ∈ m.writeByte a b) : c = (a, b) ∨ c ∈ m := by
  induction m with
  | nil => simpa [writeByte] using h
  | cons d ds ih =>
    simp only [writeByte] at h
    split at h
    · simpa using h
    · split at h
      · simp only [List.mem_cons] at h ⊢
        tauto
      · simp only [List.mem_cons] at h ⊢
        rcases h with h | h
        · exact .inr (.inl h)
        · exact (ih h).imp id .inr

theorem wf_writeByte {m : Memory} (a : Nat) (b : Byte) (h : m.wf) : (m.writeByte a b).wf := by
  induction m with
  | nil => simp [writeByte, wf]
  | cons c cs ih =>
    obtain ⟨hc, hcs⟩ := List.pairwise_cons.1 h
    simp only [writeByte]
    split
    · next hlt =>
      refine List.pairwise_cons.2 ⟨fun d hd => ?_, h⟩
      rcases List.mem_cons.1 hd with rfl | hd
      · exact hlt
      · exact lt_trans hlt (hc d hd)
    · split
      · next _ heq => exact List.pairwise_cons.2 ⟨fun d hd => heq ▸ hc d hd, hcs⟩
      · next hlt hne =>
        refine List.pairwise_cons.2 ⟨fun d hd => ?_, ih hcs⟩
        rcases mem_writeByte hd with rfl | hd
        · exact lt_of_le_of_ne (not_lt.1 hlt) (Ne.symm hne)
        · exact hc d hd

/-! ## Byte strings -/

theorem readByte_writeBytes (m : Memory) (a x : Nat) (bs : List Byte) :
    (m.writeBytes a bs).readByte x =
      if a ≤ x ∧ x < a + bs.length then bs[x - a]? else m.readByte x := by
  induction bs generalizing m a with
  | nil => simp [writeBytes, Nat.not_lt.2]
  | cons b bs ih =>
    rw [writeBytes, ih]
    rcases Nat.lt_trichotomy x a with h | rfl | h
    · rw [if_neg (by omega), if_neg (by omega), readByte_writeByte_other _ _ (by omega)]
    · simp
    · rw [readByte_writeByte_other _ _ (by omega)]
      have e : x - a = (x - (a + 1)) + 1 := by omega
      simp only [e, List.getElem?_cons_succ, List.length_cons]
      split <;> split <;> first | rfl | omega

theorem wf_writeBytes {m : Memory} (a : Nat) (bs : List Byte) (h : m.wf) :
    (m.writeBytes a bs).wf := by
  induction bs generalizing m a with
  | nil => exact h
  | cons b bs ih => exact ih (a + 1) (wf_writeByte a b h)

theorem mem_writeBytes {m : Memory} {a : Nat} {bs : List Byte} {c : Host.Cell}
    (h : c ∈ m.writeBytes a bs) : c ∈ m ∨ (a ≤ c.1 ∧ c.1 < a + bs.length) := by
  induction bs generalizing m a with
  | nil => exact .inl h
  | cons b bs ih =>
    simp only [List.length_cons]
    rcases ih h with h | h
    · rcases mem_writeByte h with rfl | h
      · exact .inr (by simp)
      · exact .inl h
    · exact .inr (by omega)

theorem readBytes_eq_some {m : Memory} {a n : Nat} {bs : List Byte} :
    m.readBytes a n = some bs ↔ bs.length = n ∧ ∀ i < n, m.readByte (a + i) = bs[i]? := by
  induction n generalizing a bs with
  | zero =>
    simp only [readBytes, Option.some.injEq, Nat.not_lt_zero, false_imp_iff, implies_true, and_true]
    exact ⟨fun h => by simp [← h], fun h => (List.length_eq_zero_iff.1 h).symm⟩
  | succ n ih =>
    simp only [readBytes]
    constructor
    · intro h
      split at h
      · next b bs' hb hbs =>
        cases h
        obtain ⟨hl, hi⟩ := ih.1 hbs
        refine ⟨by simp [hl], fun i hin => ?_⟩
        cases i with
        | zero => simpa using hb
        | succ i => simpa [Nat.add_assoc, Nat.add_comm 1 i] using hi i (by omega)
      · cases h
    · rintro ⟨hl, hi⟩
      cases bs with
      | nil => simp at hl
      | cons b bs =>
        have h0 := hi 0 (by omega)
        have hrest : m.readBytes (a + 1) n = some bs :=
          ih.2 ⟨by simpa using hl, fun i hin => by
            have := hi (i + 1) (by omega)
            simpa [Nat.add_assoc, Nat.add_comm 1 i] using this⟩
        simp only [Nat.add_zero, List.getElem?_cons_zero] at h0
        simp [h0, hrest]

end Memory

/-! ## Byte lanes -/

@[simp] theorem length_wordBytes (w : Word) : (wordBytes w).length = 8 := rfl

theorem getElem?_wordBytes (w : Word) {i : Nat} (h : i < 8) :
    (wordBytes w)[i]? = some (wordByte w i) := by
  simp [wordBytes, List.getElem?_map, List.getElem?_range h]

@[simp] theorem wordOfBytes_wordBytes (w : Word) : wordOfBytes (wordBytes w) = w := by
  apply BitVec.eq_of_getLsbD_eq
  intro i hi
  simp only [wordBytes, List.range, List.range.loop, List.map_cons, List.map_nil, wordOfBytes, wordByte]
  simp only [BitVec.getLsbD_or, BitVec.getLsbD_shiftLeft, BitVec.getLsbD_setWidth,
    BitVec.getLsbD_extractLsb']
  interval_cases i <;> simp

namespace Memory

/-! ## Words -/

theorem byteAddr_add (w i : Nat) : byteAddr w i = byteAddr w 0 + i := by simp [byteAddr]

theorem readByte_writeWord (m : Memory) (w x : Nat) (v : Word) :
    (m.writeWord w v).readByte x =
      if byteAddr w 0 ≤ x ∧ x < byteAddr w 8 then (wordBytes v)[x - byteAddr w 0]?
      else m.readByte x := by
  rw [writeWord, readByte_writeBytes, length_wordBytes, byteAddr_add w 8]

theorem readWord_eq_some {m : Memory} {w : Nat} {v : Word}
    (h : ∀ i < 8, m.readByte (byteAddr w i) = some (wordByte v i)) : m.readWord w = some v := by
  have : m.readBytes (byteAddr w 0) 8 = some (wordBytes v) :=
    readBytes_eq_some.2 ⟨by simp, fun i hi => by
      rw [← byteAddr_add, h i hi, getElem?_wordBytes v hi]⟩
  simp [readWord, this]

@[simp] theorem readWord_writeWord_same (m : Memory) (w : Nat) (v : Word) :
    (m.writeWord w v).readWord w = some v := by
  refine readWord_eq_some fun i hi => ?_
  rw [readByte_writeWord, if_pos (by simp [byteAddr]; omega), byteAddr_add w i,
    Nat.add_sub_cancel_left, getElem?_wordBytes v hi]

theorem readWord_congr {m m' : Memory} {w : Nat}
    (h : ∀ i < 8, m'.readByte (byteAddr w i) = m.readByte (byteAddr w i)) :
    m'.readWord w = m.readWord w := by
  have : m'.readBytes (byteAddr w 0) 8 = m.readBytes (byteAddr w 0) 8 := by
    ext bs
    simp only [readBytes_eq_some, ← byteAddr_add]
    exact and_congr_right fun _ => forall₂_congr fun i hi => by rw [h i hi]
  simp [readWord, this]

theorem readWord_writeWord_other (m : Memory) {w w' : Nat} (v : Word) (h : w' ≠ w) :
    (m.writeWord w v).readWord w' = m.readWord w' :=
  readWord_congr fun i hi => by
    rw [readByte_writeWord, if_neg (by simp only [byteAddr]; omega)]

theorem wf_writeWord {m : Memory} (w : Nat) (v : Word) (h : m.wf) : (m.writeWord w v).wf :=
  wf_writeBytes _ _ h

theorem mem_writeWord {m : Memory} {w : Nat} {v : Word} {c : Host.Cell}
    (h : c ∈ m.writeWord w v) : c ∈ m ∨ (byteAddr w 0 ≤ c.1 ∧ c.1 < byteAddr w 8) := by
  have := mem_writeBytes h
  rwa [length_wordBytes, ← byteAddr_add] at this

end Memory

/-! ## MemRead and MemWrite (R18) -/

open Memory

theorem memWrite_readByte_outside (m : Memory) (a x : Nat) (vs : List F64)
    (h : x < byteAddr a 0 ∨ byteAddr (a + vs.length) 0 ≤ x) :
    (memWrite m a vs).readByte x = m.readByte x := by
  induction vs generalizing m a with
  | nil => rfl
  | cons v vs ih =>
    simp only [byteAddr, List.length_cons] at h
    rw [memWrite, ih _ _ (by simp only [byteAddr]; omega), readByte_writeWord,
      if_neg (by simp only [byteAddr]; omega)]

theorem memWrite_readWord_outside (m : Memory) (a w : Nat) (vs : List F64)
    (h : w < a ∨ a + vs.length ≤ w) : (memWrite m a vs).readWord w = m.readWord w :=
  readWord_congr fun i hi =>
    memWrite_readByte_outside m a _ vs (by simp only [byteAddr]; omega)

theorem memWrite_readWord_inside (m : Memory) (a i : Nat) (vs : List F64) (h : i < vs.length) :
    (memWrite m a vs).readWord (a + i) = vs[i]? := by
  induction vs generalizing m a i with
  | nil => simp at h
  | cons v vs ih =>
    cases i with
    | zero =>
      rw [memWrite, Nat.add_zero, memWrite_readWord_outside _ _ _ _ (by omega)]
      simp
    | succ i =>
      rw [memWrite, show a + (i + 1) = (a + 1) + i by omega, ih _ _ _ (by simpa using h)]
      simp

theorem memWrite_wf {m : Memory} (a : Nat) (vs : List F64) (h : m.wf) : (memWrite m a vs).wf := by
  induction vs generalizing m a with
  | nil => exact h
  | cons v vs ih => exact ih (a + 1) (wf_writeWord a v h)

theorem mem_memWrite {m : Memory} {a : Nat} {vs : List F64} {c : Host.Cell}
    (h : c ∈ memWrite m a vs) :
    c ∈ m ∨ (byteAddr a 0 ≤ c.1 ∧ c.1 < byteAddr (a + vs.length) 0) := by
  induction vs generalizing m a with
  | nil => exact .inl h
  | cons v vs ih =>
    simp only [byteAddr, List.length_cons] at *
    rcases ih h with h | h
    · rcases mem_writeWord h with h | h
      · exact .inl h
      · simp only [byteAddr] at h
        exact .inr (by omega)
    · exact .inr (by omega)

theorem memRead_eq_some {m : Memory} {a n : Nat} {vs : List F64} :
    memRead m a n = some vs ↔ vs.length = n ∧ ∀ i < n, m.readWord (a + i) = vs[i]? := by
  induction n generalizing a vs with
  | zero =>
    simp only [memRead, Option.some.injEq, Nat.not_lt_zero, false_imp_iff, implies_true, and_true]
    exact ⟨fun h => by simp [← h], fun h => (List.length_eq_zero_iff.1 h).symm⟩
  | succ n ih =>
    simp only [memRead]
    constructor
    · intro h
      split at h
      · next v vs' hv hvs =>
        cases h
        obtain ⟨hl, hi⟩ := ih.1 hvs
        refine ⟨by simp [hl], fun i hin => ?_⟩
        cases i with
        | zero => simpa using hv
        | succ i => simpa [Nat.add_assoc, Nat.add_comm 1 i] using hi i (by omega)
      · cases h
    · rintro ⟨hl, hi⟩
      cases vs with
      | nil => simp at hl
      | cons v vs =>
        have h0 := hi 0 (by omega)
        have hrest : memRead m (a + 1) n = some vs :=
          ih.2 ⟨by simpa using hl, fun i hin => by
            have := hi (i + 1) (by omega)
            simpa [Nat.add_assoc, Nat.add_comm 1 i] using this⟩
        simp only [Nat.add_zero, List.getElem?_cons_zero] at h0
        simp [h0, hrest]

theorem memRead_isSome {m : Memory} {a n : Nat} :
    (memRead m a n).isSome ↔ ∀ i < n, (m.readWord (a + i)).isSome := by
  induction n generalizing a with
  | zero => simp [memRead]
  | succ n ih =>
    simp only [memRead]
    constructor
    · intro h i hi
      split at h
      · next v vs hv hvs =>
        cases i with
        | zero => rw [Nat.add_zero, hv]; rfl
        | succ i =>
          have := ih.1 (by rw [hvs]; rfl) i (by omega)
          rwa [show a + 1 + i = a + (i + 1) by omega] at this
      · simp at h
    · intro h
      obtain ⟨v, hv⟩ := Option.isSome_iff_exists.1 (h 0 (by omega))
      have hrest : (memRead m (a + 1) n).isSome := ih.2 fun i hi => by
        have := h (i + 1) (by omega)
        rwa [show a + (i + 1) = a + 1 + i by omega] at this
      obtain ⟨vs, hvs⟩ := Option.isSome_iff_exists.1 hrest
      rw [Nat.add_zero] at hv
      simp [hv, hvs]

/-! ## Complex buffers and NaN draws -/

@[simp] theorem length_ofComplex (xs : List C64) : (ofComplex xs).length = 2 * xs.length := by
  induction xs with
  | nil => rfl
  | cons c cs ih => simp [ofComplex, ih]; omega

@[simp] theorem toComplex_ofComplex (xs : List C64) : toComplex (ofComplex xs) = xs := by
  induction xs with
  | nil => rfl
  | cons c cs ih => simp [ofComplex, toComplex, ih]

theorem length_toComplex (n : Nat) (vs : List F64) (h : vs.length = 2 * n) :
    (toComplex vs).length = n := by
  induction n generalizing vs with
  | zero => simp at h; simp [h, toComplex]
  | succ n ih =>
    match vs, h with
    | re :: im :: vs, h => simp only [List.length_cons] at h; simp [toComplex, ih vs (by omega)]

@[simp] theorem length_settleNaNs (k : Nat) (vs : List F64) : (settleNaNs k vs).length = vs.length := by
  induction vs generalizing k with
  | nil => rfl
  | cons v vs ih => simp [settleNaNs, ih]

theorem getElem?_settleNaNs (k i : Nat) (vs : List F64) :
    (settleNaNs k vs)[i]? = (vs[i]?).map (settleNaN (k + i)) := by
  induction vs generalizing k i with
  | nil => simp [settleNaNs]
  | cons v vs ih =>
    cases i with
    | zero => simp [settleNaNs]
    | succ i => simp [settleNaNs, ih, Nat.add_assoc, Nat.add_comm 1 i]

/-- A word the engine has written holds its result, its NaN bits settled by a draw of its own. -/
theorem engineWrite_readWord (s : State) (a i : Nat) {vs : List F64} (h : i < vs.length) :
    (s.engineWrite a vs).mem.readWord (a + i)
      = some (settleNaN (s.draws + i) (vs.getD i fzero)) := by
  change (memWrite s.mem a (settleNaNs s.draws vs)).readWord (a + i) = _
  rw [memWrite_readWord_inside _ _ _ _ (by simpa using h), getElem?_settleNaNs]
  simp [List.getD, List.getElem?_eq_getElem h]

theorem getD_ofComplex (xs : List C64) (k : Nat) :
    (ofComplex xs).getD (2 * k) fzero = (xs.getD k czero).re ∧
    (ofComplex xs).getD (2 * k + 1) fzero = (xs.getD k czero).im := by
  induction xs generalizing k with
  | nil => exact ⟨rfl, rfl⟩
  | cons x xs ih =>
    cases k with
    | zero => exact ⟨rfl, rfl⟩
    | succ k => exact ih k

end Sys2Proof.Machine
end

