-- ==== Sys2Proof/Laws/Decode.lean ====
section
/-! SUPPORT. Small facts about the decoder, the encoder and the fields of format C. -/

namespace Sys2Proof

@[simp] theorem decode_encode (i : Instr) : decode (encode i) = .ok i := by cases i <;> rfl

@[simp] theorem instrOfOpcode_opcodeOf (i : Instr) : instrOfOpcode (opcodeOf i) = some i := by
  cases i <;> rfl

theorem opcodeOf_of_instrOfOpcode {op : BitVec 8} {i : Instr} (h : instrOfOpcode op = some i) :
    opcodeOf i = op := by
  simp only [instrOfOpcode] at h
  split_ifs at h <;> cases h <;> simp [opcodeOf, *]

theorem opcodeListed_iff (c : RawCmd) :
    c.opcodeListed = (instrOfOpcode c.opcode).isSome := by
  simp only [RawCmd.opcodeListed, instrOfOpcode, List.contains_cons, List.contains_nil]
  split_ifs <;> simp_all

theorem rawCmd_encode (i : Instr) : rawCmd (encode i) = { rsvd := 0, opcode := opcodeOf i } := by
  cases i <;> rfl

/-- The low byte of a command word is what a failure records (R312). -/
theorem opcode_encode (i : Instr) : (encode i).extractLsb' 0 8 = opcodeOf i := by cases i <;> rfl

/-- A word is its two fields. -/
theorem rawCmd_append (w : Word) : (rawCmd w).rsvd ++ (rawCmd w).opcode = w := by
  apply BitVec.eq_of_getLsbD_eq
  intro k hk
  simp only [rawCmd, BitVec.getLsbD_append, BitVec.getLsbD_extractLsb']
  by_cases h : k < 8
  · simp [h]
  · simp [h, show k - 8 < 56 by omega, show 8 + (k - 8) = k by omega]

end Sys2Proof
end

