-- ==== Sys2Proof/Laws/Flags.lean ====
section
/-! SUPPORT. The fields of STATUS after each named change, true by rfl; and firstError's two cases. -/

namespace Sys2Proof.Machine

variable (f : Status)

@[simp] theorem statusAccept_busy : (statusAccept f).busy = true := rfl
@[simp] theorem statusAccept_done : (statusAccept f).done = false := rfl
@[simp] theorem statusAccept_err : (statusAccept f).err = false := rfl
@[simp] theorem statusAccept_cmdOverrun : (statusAccept f).cmdOverrun = f.cmdOverrun := rfl
@[simp] theorem statusAccept_planValid : (statusAccept f).planValid = f.planValid := rfl
@[simp] theorem statusAccept_planBs : (statusAccept f).planBs = f.planBs := rfl

@[simp] theorem statusComplete_busy : (statusComplete f).busy = false := rfl
@[simp] theorem statusComplete_done : (statusComplete f).done = true := rfl
@[simp] theorem statusComplete_err : (statusComplete f).err = f.err := rfl
@[simp] theorem statusComplete_cmdOverrun : (statusComplete f).cmdOverrun = f.cmdOverrun := rfl
@[simp] theorem statusComplete_planValid : (statusComplete f).planValid = f.planValid := rfl
@[simp] theorem statusComplete_planBs : (statusComplete f).planBs = f.planBs := rfl

@[simp] theorem statusFail_busy : (statusFail f).busy = false := rfl
@[simp] theorem statusFail_done : (statusFail f).done = true := rfl
@[simp] theorem statusFail_err : (statusFail f).err = true := rfl
@[simp] theorem statusFail_cmdOverrun : (statusFail f).cmdOverrun = f.cmdOverrun := rfl
@[simp] theorem statusFail_planValid : (statusFail f).planValid = f.planValid := rfl
@[simp] theorem statusFail_planBs : (statusFail f).planBs = f.planBs := rfl

@[simp] theorem statusOverrun_busy : (statusOverrun f).busy = f.busy := rfl
@[simp] theorem statusOverrun_done : (statusOverrun f).done = f.done := rfl
@[simp] theorem statusOverrun_err : (statusOverrun f).err = f.err := rfl
@[simp] theorem statusOverrun_cmdOverrun : (statusOverrun f).cmdOverrun = true := rfl
@[simp] theorem statusOverrun_planValid : (statusOverrun f).planValid = f.planValid := rfl
@[simp] theorem statusOverrun_planBs : (statusOverrun f).planBs = f.planBs := rfl

@[simp] theorem statusWrite_busy (w : Word) : (statusWrite w f).busy = f.busy := rfl
@[simp] theorem statusWrite_done (w : Word) :
    (statusWrite w f).done = (f.done && !(w.getLsbD 1)) := rfl
@[simp] theorem statusWrite_err (w : Word) :
    (statusWrite w f).err = (f.err && !(w.getLsbD 2)) := rfl
@[simp] theorem statusWrite_cmdOverrun (w : Word) :
    (statusWrite w f).cmdOverrun = (f.cmdOverrun && !(w.getLsbD 3)) := rfl
@[simp] theorem statusWrite_planValid (w : Word) : (statusWrite w f).planValid = f.planValid := rfl
@[simp] theorem statusWrite_planBs (w : Word) : (statusWrite w f).planBs = f.planBs := rfl

@[simp] theorem statusPlan_busy (b : Bool) : (statusPlan b f).busy = f.busy := rfl
@[simp] theorem statusPlan_done (b : Bool) : (statusPlan b f).done = f.done := rfl
@[simp] theorem statusPlan_err (b : Bool) : (statusPlan b f).err = f.err := rfl
@[simp] theorem statusPlan_cmdOverrun (b : Bool) : (statusPlan b f).cmdOverrun = f.cmdOverrun := rfl
@[simp] theorem statusPlan_planValid (b : Bool) : (statusPlan b f).planValid = true := rfl
@[simp] theorem statusPlan_planBs (b : Bool) : (statusPlan b f).planBs = b := rfl

@[simp] theorem statusAbandon_busy : (statusAbandon f).busy = false := rfl
@[simp] theorem statusAbandon_done : (statusAbandon f).done = f.done := rfl
@[simp] theorem statusAbandon_err : (statusAbandon f).err = f.err := rfl
@[simp] theorem statusAbandon_cmdOverrun : (statusAbandon f).cmdOverrun = f.cmdOverrun := rfl
@[simp] theorem statusAbandon_planValid : (statusAbandon f).planValid = f.planValid := rfl
@[simp] theorem statusAbandon_planBs : (statusAbandon f).planBs = f.planBs := rfl

/-! ## firstError -/

@[simp] theorem firstError_nil : firstError [] = none := rfl

@[simp] theorem firstError_cons (c : Bool) (e : Err) (rest : List (Bool × Err)) :
    firstError ((c, e) :: rest) = if c then some e else firstError rest := rfl

theorem firstError_eq_none {l : List (Bool × Err)} :
    firstError l = none ↔ ∀ x ∈ l, x.1 = false := by
  induction l with
  | nil => simp
  | cons x xs ih => obtain ⟨c, e⟩ := x; cases c <;> simp [ih]

theorem firstError_append (l l' : List (Bool × Err)) :
    firstError (l ++ l') = (firstError l).or (firstError l') := by
  induction l with
  | nil => simp
  | cons x xs ih => obtain ⟨c, e⟩ := x; cases c <;> simp [ih]

theorem errNumber_ne_zero (e : Err) : errNumber e ≠ 0 := by cases e <;> decide

end Sys2Proof.Machine
end

