-- ==== Sys2Proof/Laws/Lengths.lean ====
section
/-! SUPPORT. How many values each datapath answers with: a transform has N bins, a window its length, a mel
matrix NF*NB entries and a spectrogram its OW words, whatever the operands. -/

namespace Sys2Proof.Machine

theorem foldl_length {α β : Type} (f : List α → β → List α)
    (hf : ∀ a b, (f a b).length = a.length) (l : List β) (a : List α) :
    (l.foldl f a).length = a.length := by
  induction l generalizing a with
  | nil => rfl
  | cons b bs ih => rw [List.foldl_cons, ih, hf]

/-! ## The power-of-two datapath -/

section
variable {R C : Type} (A : CArith R C)

@[simp] theorem length_brevLoad (brev : List Nat) (x : List C) (n : Nat) :
    (brevLoad A brev x n).length = n := by simp [brevLoad]

@[simp] theorem length_radix2Pair (a : List C) (m : Nat) :
    (radix2Pair A a m).length = a.length := by simp [radix2Pair]

@[simp] theorem length_radix2Stage (a : List C) (n : Nat) :
    (radix2Stage A a n).length = a.length :=
  foldl_length _ (length_radix2Pair A) _ _

@[simp] theorem length_butterfly (tw : List C) (dir : Dir) (l st b : Nat) (a : List C) (k : Nat) :
    (butterfly A tw dir l st b a k).length = a.length := by simp [butterfly]

@[simp] theorem length_radix4Group (tw : List C) (dir : Dir) (l st : Nat) (a : List C) (g : Nat) :
    (radix4Group A tw dir l st a g).length = a.length :=
  foldl_length _ (length_butterfly A tw dir l st _) _ _

@[simp] theorem length_radix4Stage (tw : List C) (dir : Dir) (n l : Nat) (a : List C) :
    (radix4Stage A tw dir n l a).length = a.length :=
  foldl_length _ (length_radix4Group A tw dir l _) _ _

@[simp] theorem length_radix4Loop (tw : List C) (dir : Dir) (n fuel l : Nat) (a : List C) :
    (radix4Loop A tw dir n fuel l a).length = a.length := by
  induction fuel generalizing l a with
  | zero => rfl
  | succ fuel ih => simp only [radix4Loop]; split <;> simp [ih]

@[simp] theorem length_fftP2 (brev : List Nat) (tw x : List C) (n : Nat) (dir : Dir) :
    (fftP2 A brev tw x n dir).length = n := by simp only [fftP2]; split <;> simp

@[simp] theorem length_scaleDown (n : Nat) (x : List C) : (scaleDown A n x).length = x.length := by
  simp [scaleDown]

@[simp] theorem length_invP2 (brev : List Nat) (tw x : List C) (n : Nat) :
    (invP2 A brev tw x n).length = n := by simp [invP2]

@[simp] theorem length_realP2 (brev : List Nat) (tw : List C) (x : List R) (n : Nat) :
    (realP2 A brev tw x n).length = n := by simp [realP2, mirror]

/-! ## The Bluestein datapath -/

@[simp] theorem length_bsConvolve (n m : Nat) (brevM : List Nat) (twM w bf a : List C) :
    (bsConvolve A n m brevM twM w bf a).length = n := by simp [bsConvolve]

@[simp] theorem length_bsFwd (n m : Nat) (brevM : List Nat) (twM w bf x : List C) :
    (bsFwd A n m brevM twM w bf x).length = n := by simp [bsFwd]

@[simp] theorem length_bsInv (n m : Nat) (brevM : List Nat) (twM w bf x : List C) :
    (bsInv A n m brevM twM w bf x).length = n := by simp [bsInv]

@[simp] theorem length_bsReal (n m : Nat) (brevM : List Nat) (twM w bf : List C) (x : List R) :
    (bsReal A n m brevM twM w bf x).length = n := by simp [bsReal]

end

/-! ## The plan's transforms -/

@[simp] theorem length_planFwd (p : Plan) (x : List C64) : (planFwd p x).length = p.pn := by
  simp only [planFwd]; split <;> simp

@[simp] theorem length_planReal (p : Plan) (x : List F64) : (planReal p x).length = p.pn := by
  simp only [planReal]; split <;> simp

@[simp] theorem length_planInv (p : Plan) (x : List C64) : (planInv p x).length = p.pn := by
  simp only [planInv]; split <;> simp

@[simp] theorem pn_buildPlan (n : Nat) : (buildPlan n).pn = n := by
  simp only [buildPlan]; split <;> rfl

/-! ## Window and mel matrix -/

@[simp] theorem length_window (kind : Nat) (periodic : Bool) (n : Nat) :
    (window kind periodic n).length = n := by
  simp only [window]
  split
  · simp_all
  · split
    · simp_all
    · simp

@[simp] theorem length_linspace (a b : F64) (k : Nat) : (linspace a b k).length = k := by
  simp [linspace]

theorem length_flatMap_map {α : Type} (m n : Nat) (f : Nat → Nat → α) :
    ((List.range m).flatMap (fun i => (List.range n).map (f i))).length = m * n := by
  simp [List.length_flatMap, List.map_const']

/-- Entry (i, j) of a row-major table stands at i*n + j. -/
theorem getD_flatMap_map {α : Type} (m n : Nat) (f : Nat → Nat → α) (d : α) {i j : Nat} (hi : i < m)
    (hj : j < n) :
    ((List.range m).flatMap (fun a => (List.range n).map (f a))).getD (i * n + j) d = f i j := by
  induction m generalizing i with
  | zero => omega
  | succ m ih =>
    rw [List.range_succ, List.flatMap_append]
    by_cases h : i < m
    · have h1 : i * n + j < m * n := by
        have := Nat.mul_le_mul_right n (Nat.succ_le_of_lt h)
        rw [Nat.succ_mul] at this
        omega
      rw [List.getD_append _ _ _ _ (by rw [length_flatMap_map]; exact h1)]
      exact ih h
    · obtain rfl : i = m := by omega
      rw [List.getD_append_right _ _ _ _ (by rw [length_flatMap_map]; omega), length_flatMap_map]
      simp [hj, List.getD]

@[simp] theorem length_melMatrix (c : ConfigRegs) :
    (melMatrix c).length = c.melNfilt.toNat * c.melNbins.toNat := by
  simp only [melMatrix]
  exact length_flatMap_map _ _ _

/-! ## Spectrogram -/

@[simp] theorem length_outputOrder (o : SgOps) :
    (outputOrder o).length = sgRows o * sgOutCount o := by
  simp only [outputOrder]
  split
  · rw [length_flatMap_map, Nat.mul_comm]
  · exact length_flatMap_map _ _ _

/-- The position of output (frame f, row r) (R268, R269). -/
theorem getD_outputOrder (o : SgOps) {r f : Nat} (hr : r < sgRows o) (hf : f < sgOutCount o) :
    (outputOrder o).getD (if o.transpose then f * sgRows o + r else r * sgOutCount o + f) (0, 0)
      = (f, r) := by
  unfold outputOrder
  split
  · exact getD_flatMap_map _ _ (fun t r => (t, r)) _ hf hr
  · exact getD_flatMap_map _ _ (fun r t => (t, r)) _ hr hf

@[simp] theorem length_spectrogramWords (rule : PowerExpRule) (o : SgOps) (p : Plan)
    (x win mel : List F64) :
    (spectrogramWords rule o p x win mel).length = sgOutWords o := by
  simp only [spectrogramWords, sgOutWords]
  split <;> simp [Nat.mul_comm]

end Sys2Proof.Machine
end

