-- ==== Sys2Proof/Laws/State.lean ====
section
/-! SUPPORT. One lemma per field per named update of the state, each true by rfl, so that no later proof unfolds
a record update. -/

namespace Sys2Proof.Machine.State

variable (s : State)

/-! ### discard -/

@[simp] theorem discard_params : (s.discard).params = s.params := rfl
@[simp] theorem discard_rstN : (s.discard).rstN = s.rstN := rfl
@[simp] theorem discard_irqEn : (s.discard).irqEn = s.irqEn := rfl
@[simp] theorem discard_status : (s.discard).status = s.status := rfl
@[simp] theorem discard_errCode : (s.discard).errCode = s.errCode := rfl
@[simp] theorem discard_cfg : (s.discard).cfg = s.cfg := rfl
@[simp] theorem discard_planCurN : (s.discard).planCurN = s.planCurN := rfl
@[simp] theorem discard_planM : (s.discard).planM = s.planM := rfl
@[simp] theorem discard_planObuf : (s.discard).planObuf = s.planObuf := rfl
@[simp] theorem discard_sgOutRows : (s.discard).sgOutRows = s.sgOutRows := rfl
@[simp] theorem discard_sgOutFrames : (s.discard).sgOutFrames = s.sgOutFrames := rfl
@[simp] theorem discard_sgCompFrames : (s.discard).sgCompFrames = s.sgCompFrames := rfl
@[simp] theorem discard_plan : (s.discard).plan = s.plan := rfl
@[simp] theorem discard_cmd : (s.discard).cmd = 0 := rfl
@[simp] theorem discard_snap : (s.discard).snap = ConfigRegs.zero := rfl
@[simp] theorem discard_latency : (s.discard).latency = 0 := rfl
@[simp] theorem discard_mem : (s.discard).mem = s.mem := rfl
@[simp] theorem discard_held : (s.discard).held = s.held := rfl
@[simp] theorem discard_host : (s.discard).host = s.host := rfl
@[simp] theorem discard_resp : (s.discard).resp = s.resp := rfl
@[simp] theorem discard_draws : (s.discard).draws = s.draws := rfl

/-! ### accept -/

@[simp] theorem accept_params (w : Word) (n : Nat) : (s.accept w n).params = s.params := rfl
@[simp] theorem accept_rstN (w : Word) (n : Nat) : (s.accept w n).rstN = s.rstN := rfl
@[simp] theorem accept_irqEn (w : Word) (n : Nat) : (s.accept w n).irqEn = s.irqEn := rfl
@[simp] theorem accept_status (w : Word) (n : Nat) : (s.accept w n).status = statusAccept s.status := rfl
@[simp] theorem accept_errCode (w : Word) (n : Nat) : (s.accept w n).errCode = errNone := rfl
@[simp] theorem accept_cfg (w : Word) (n : Nat) : (s.accept w n).cfg = s.cfg := rfl
@[simp] theorem accept_planCurN (w : Word) (n : Nat) : (s.accept w n).planCurN = s.planCurN := rfl
@[simp] theorem accept_planM (w : Word) (n : Nat) : (s.accept w n).planM = s.planM := rfl
@[simp] theorem accept_planObuf (w : Word) (n : Nat) : (s.accept w n).planObuf = s.planObuf := rfl
@[simp] theorem accept_sgOutRows (w : Word) (n : Nat) : (s.accept w n).sgOutRows = s.sgOutRows := rfl
@[simp] theorem accept_sgOutFrames (w : Word) (n : Nat) : (s.accept w n).sgOutFrames = s.sgOutFrames := rfl
@[simp] theorem accept_sgCompFrames (w : Word) (n : Nat) : (s.accept w n).sgCompFrames = s.sgCompFrames := rfl
@[simp] theorem accept_plan (w : Word) (n : Nat) : (s.accept w n).plan = s.plan := rfl
@[simp] theorem accept_cmd (w : Word) (n : Nat) : (s.accept w n).cmd = w := rfl
@[simp] theorem accept_snap (w : Word) (n : Nat) : (s.accept w n).snap = s.cfg := rfl
@[simp] theorem accept_latency (w : Word) (n : Nat) : (s.accept w n).latency = n := rfl
@[simp] theorem accept_mem (w : Word) (n : Nat) : (s.accept w n).mem = s.mem := rfl
@[simp] theorem accept_held (w : Word) (n : Nat) : (s.accept w n).held = s.held := rfl
@[simp] theorem accept_host (w : Word) (n : Nat) : (s.accept w n).host = s.host := rfl
@[simp] theorem accept_resp (w : Word) (n : Nat) : (s.accept w n).resp = s.resp := rfl
@[simp] theorem accept_draws (w : Word) (n : Nat) : (s.accept w n).draws = s.draws := rfl

/-! ### complete -/

@[simp] theorem complete_params : (s.complete).params = s.params := rfl
@[simp] theorem complete_rstN : (s.complete).rstN = s.rstN := rfl
@[simp] theorem complete_irqEn : (s.complete).irqEn = s.irqEn := rfl
@[simp] theorem complete_status : (s.complete).status = statusComplete s.status := rfl
@[simp] theorem complete_errCode : (s.complete).errCode = s.errCode := rfl
@[simp] theorem complete_cfg : (s.complete).cfg = s.cfg := rfl
@[simp] theorem complete_planCurN : (s.complete).planCurN = s.planCurN := rfl
@[simp] theorem complete_planM : (s.complete).planM = s.planM := rfl
@[simp] theorem complete_planObuf : (s.complete).planObuf = s.planObuf := rfl
@[simp] theorem complete_sgOutRows : (s.complete).sgOutRows = s.sgOutRows := rfl
@[simp] theorem complete_sgOutFrames : (s.complete).sgOutFrames = s.sgOutFrames := rfl
@[simp] theorem complete_sgCompFrames : (s.complete).sgCompFrames = s.sgCompFrames := rfl
@[simp] theorem complete_plan : (s.complete).plan = s.plan := rfl
@[simp] theorem complete_cmd : (s.complete).cmd = 0 := rfl
@[simp] theorem complete_snap : (s.complete).snap = ConfigRegs.zero := rfl
@[simp] theorem complete_latency : (s.complete).latency = 0 := rfl
@[simp] theorem complete_mem : (s.complete).mem = s.mem := rfl
@[simp] theorem complete_held : (s.complete).held = s.held := rfl
@[simp] theorem complete_host : (s.complete).host = s.host := rfl
@[simp] theorem complete_resp : (s.complete).resp = s.resp := rfl
@[simp] theorem complete_draws : (s.complete).draws = s.draws := rfl

/-! ### fail -/

@[simp] theorem fail_params (e : Err) : (s.fail e).params = s.params := rfl
@[simp] theorem fail_rstN (e : Err) : (s.fail e).rstN = s.rstN := rfl
@[simp] theorem fail_irqEn (e : Err) : (s.fail e).irqEn = s.irqEn := rfl
@[simp] theorem fail_status (e : Err) : (s.fail e).status = statusFail s.status := rfl
@[simp] theorem fail_errCode (e : Err) : (s.fail e).errCode = { code := errNumber e, opcode := s.cmd.extractLsb' 0 8 } := rfl
@[simp] theorem fail_cfg (e : Err) : (s.fail e).cfg = s.cfg := rfl
@[simp] theorem fail_planCurN (e : Err) : (s.fail e).planCurN = s.planCurN := rfl
@[simp] theorem fail_planM (e : Err) : (s.fail e).planM = s.planM := rfl
@[simp] theorem fail_planObuf (e : Err) : (s.fail e).planObuf = s.planObuf := rfl
@[simp] theorem fail_sgOutRows (e : Err) : (s.fail e).sgOutRows = s.sgOutRows := rfl
@[simp] theorem fail_sgOutFrames (e : Err) : (s.fail e).sgOutFrames = s.sgOutFrames := rfl
@[simp] theorem fail_sgCompFrames (e : Err) : (s.fail e).sgCompFrames = s.sgCompFrames := rfl
@[simp] theorem fail_plan (e : Err) : (s.fail e).plan = s.plan := rfl
@[simp] theorem fail_cmd (e : Err) : (s.fail e).cmd = 0 := rfl
@[simp] theorem fail_snap (e : Err) : (s.fail e).snap = ConfigRegs.zero := rfl
@[simp] theorem fail_latency (e : Err) : (s.fail e).latency = 0 := rfl
@[simp] theorem fail_mem (e : Err) : (s.fail e).mem = s.mem := rfl
@[simp] theorem fail_held (e : Err) : (s.fail e).held = s.held := rfl
@[simp] theorem fail_host (e : Err) : (s.fail e).host = s.host := rfl
@[simp] theorem fail_resp (e : Err) : (s.fail e).resp = s.resp := rfl
@[simp] theorem fail_draws (e : Err) : (s.fail e).draws = s.draws := rfl

/-! ### abandon -/

@[simp] theorem abandon_params : (s.abandon).params = s.params := rfl
@[simp] theorem abandon_rstN : (s.abandon).rstN = s.rstN := rfl
@[simp] theorem abandon_irqEn : (s.abandon).irqEn = s.irqEn := rfl
@[simp] theorem abandon_status : (s.abandon).status = statusAbandon s.status := rfl
@[simp] theorem abandon_errCode : (s.abandon).errCode = s.errCode := rfl
@[simp] theorem abandon_cfg : (s.abandon).cfg = s.cfg := rfl
@[simp] theorem abandon_planCurN : (s.abandon).planCurN = s.planCurN := rfl
@[simp] theorem abandon_planM : (s.abandon).planM = s.planM := rfl
@[simp] theorem abandon_planObuf : (s.abandon).planObuf = s.planObuf := rfl
@[simp] theorem abandon_sgOutRows : (s.abandon).sgOutRows = s.sgOutRows := rfl
@[simp] theorem abandon_sgOutFrames : (s.abandon).sgOutFrames = s.sgOutFrames := rfl
@[simp] theorem abandon_sgCompFrames : (s.abandon).sgCompFrames = s.sgCompFrames := rfl
@[simp] theorem abandon_plan : (s.abandon).plan = s.plan := rfl
@[simp] theorem abandon_cmd : (s.abandon).cmd = 0 := rfl
@[simp] theorem abandon_snap : (s.abandon).snap = ConfigRegs.zero := rfl
@[simp] theorem abandon_latency : (s.abandon).latency = 0 := rfl
@[simp] theorem abandon_mem : (s.abandon).mem = s.mem := rfl
@[simp] theorem abandon_held : (s.abandon).held = s.held := rfl
@[simp] theorem abandon_host : (s.abandon).host = s.host := rfl
@[simp] theorem abandon_resp : (s.abandon).resp = s.resp := rfl
@[simp] theorem abandon_draws : (s.abandon).draws = s.draws := rfl

/-! ### engineWrite -/

@[simp] theorem engineWrite_params (a : Nat) (vs : List F64) : (s.engineWrite a vs).params = s.params := rfl
@[simp] theorem engineWrite_rstN (a : Nat) (vs : List F64) : (s.engineWrite a vs).rstN = s.rstN := rfl
@[simp] theorem engineWrite_irqEn (a : Nat) (vs : List F64) : (s.engineWrite a vs).irqEn = s.irqEn := rfl
@[simp] theorem engineWrite_status (a : Nat) (vs : List F64) : (s.engineWrite a vs).status = s.status := rfl
@[simp] theorem engineWrite_errCode (a : Nat) (vs : List F64) : (s.engineWrite a vs).errCode = s.errCode := rfl
@[simp] theorem engineWrite_cfg (a : Nat) (vs : List F64) : (s.engineWrite a vs).cfg = s.cfg := rfl
@[simp] theorem engineWrite_planCurN (a : Nat) (vs : List F64) : (s.engineWrite a vs).planCurN = s.planCurN := rfl
@[simp] theorem engineWrite_planM (a : Nat) (vs : List F64) : (s.engineWrite a vs).planM = s.planM := rfl
@[simp] theorem engineWrite_planObuf (a : Nat) (vs : List F64) : (s.engineWrite a vs).planObuf = s.planObuf := rfl
@[simp] theorem engineWrite_sgOutRows (a : Nat) (vs : List F64) : (s.engineWrite a vs).sgOutRows = s.sgOutRows := rfl
@[simp] theorem engineWrite_sgOutFrames (a : Nat) (vs : List F64) : (s.engineWrite a vs).sgOutFrames = s.sgOutFrames := rfl
@[simp] theorem engineWrite_sgCompFrames (a : Nat) (vs : List F64) : (s.engineWrite a vs).sgCompFrames = s.sgCompFrames := rfl
@[simp] theorem engineWrite_plan (a : Nat) (vs : List F64) : (s.engineWrite a vs).plan = s.plan := rfl
@[simp] theorem engineWrite_cmd (a : Nat) (vs : List F64) : (s.engineWrite a vs).cmd = s.cmd := rfl
@[simp] theorem engineWrite_snap (a : Nat) (vs : List F64) : (s.engineWrite a vs).snap = s.snap := rfl
@[simp] theorem engineWrite_latency (a : Nat) (vs : List F64) : (s.engineWrite a vs).latency = s.latency := rfl
@[simp] theorem engineWrite_mem (a : Nat) (vs : List F64) : (s.engineWrite a vs).mem = memWrite s.mem a (settleNaNs s.draws vs) := rfl
@[simp] theorem engineWrite_held (a : Nat) (vs : List F64) : (s.engineWrite a vs).held = s.held := rfl
@[simp] theorem engineWrite_host (a : Nat) (vs : List F64) : (s.engineWrite a vs).host = s.host := rfl
@[simp] theorem engineWrite_resp (a : Nat) (vs : List F64) : (s.engineWrite a vs).resp = s.resp := rfl
@[simp] theorem engineWrite_draws (a : Nat) (vs : List F64) : (s.engineWrite a vs).draws = s.draws + vs.length := rfl

/-! ### setShape -/

@[simp] theorem setShape_params (r f c : Nat) : (s.setShape r f c).params = s.params := rfl
@[simp] theorem setShape_rstN (r f c : Nat) : (s.setShape r f c).rstN = s.rstN := rfl
@[simp] theorem setShape_irqEn (r f c : Nat) : (s.setShape r f c).irqEn = s.irqEn := rfl
@[simp] theorem setShape_status (r f c : Nat) : (s.setShape r f c).status = s.status := rfl
@[simp] theorem setShape_errCode (r f c : Nat) : (s.setShape r f c).errCode = s.errCode := rfl
@[simp] theorem setShape_cfg (r f c : Nat) : (s.setShape r f c).cfg = s.cfg := rfl
@[simp] theorem setShape_planCurN (r f c : Nat) : (s.setShape r f c).planCurN = s.planCurN := rfl
@[simp] theorem setShape_planM (r f c : Nat) : (s.setShape r f c).planM = s.planM := rfl
@[simp] theorem setShape_planObuf (r f c : Nat) : (s.setShape r f c).planObuf = s.planObuf := rfl
@[simp] theorem setShape_sgOutRows (r f c : Nat) : (s.setShape r f c).sgOutRows = BitVec.ofNat 32 r := rfl
@[simp] theorem setShape_sgOutFrames (r f c : Nat) : (s.setShape r f c).sgOutFrames = BitVec.ofNat 32 f := rfl
@[simp] theorem setShape_sgCompFrames (r f c : Nat) : (s.setShape r f c).sgCompFrames = BitVec.ofNat 32 c := rfl
@[simp] theorem setShape_plan (r f c : Nat) : (s.setShape r f c).plan = s.plan := rfl
@[simp] theorem setShape_cmd (r f c : Nat) : (s.setShape r f c).cmd = s.cmd := rfl
@[simp] theorem setShape_snap (r f c : Nat) : (s.setShape r f c).snap = s.snap := rfl
@[simp] theorem setShape_latency (r f c : Nat) : (s.setShape r f c).latency = s.latency := rfl
@[simp] theorem setShape_mem (r f c : Nat) : (s.setShape r f c).mem = s.mem := rfl
@[simp] theorem setShape_held (r f c : Nat) : (s.setShape r f c).held = s.held := rfl
@[simp] theorem setShape_host (r f c : Nat) : (s.setShape r f c).host = s.host := rfl
@[simp] theorem setShape_resp (r f c : Nat) : (s.setShape r f c).resp = s.resp := rfl
@[simp] theorem setShape_draws (r f c : Nat) : (s.setShape r f c).draws = s.draws := rfl

/-! ### installPlan -/

@[simp] theorem installPlan_params (p : Plan) : (s.installPlan p).params = s.params := rfl
@[simp] theorem installPlan_rstN (p : Plan) : (s.installPlan p).rstN = s.rstN := rfl
@[simp] theorem installPlan_irqEn (p : Plan) : (s.installPlan p).irqEn = s.irqEn := rfl
@[simp] theorem installPlan_status (p : Plan) : (s.installPlan p).status = statusPlan p.isBs s.status := rfl
@[simp] theorem installPlan_errCode (p : Plan) : (s.installPlan p).errCode = s.errCode := rfl
@[simp] theorem installPlan_cfg (p : Plan) : (s.installPlan p).cfg = s.cfg := rfl
@[simp] theorem installPlan_planCurN (p : Plan) : (s.installPlan p).planCurN = BitVec.ofNat 32 p.pn := rfl
@[simp] theorem installPlan_planM (p : Plan) : (s.installPlan p).planM = BitVec.ofNat 32 p.innerLen := rfl
@[simp] theorem installPlan_planObuf (p : Plan) : (s.installPlan p).planObuf = BitVec.ofNat 32 p.obuf := rfl
@[simp] theorem installPlan_sgOutRows (p : Plan) : (s.installPlan p).sgOutRows = s.sgOutRows := rfl
@[simp] theorem installPlan_sgOutFrames (p : Plan) : (s.installPlan p).sgOutFrames = s.sgOutFrames := rfl
@[simp] theorem installPlan_sgCompFrames (p : Plan) : (s.installPlan p).sgCompFrames = s.sgCompFrames := rfl
@[simp] theorem installPlan_plan (p : Plan) : (s.installPlan p).plan = some p := rfl
@[simp] theorem installPlan_cmd (p : Plan) : (s.installPlan p).cmd = s.cmd := rfl
@[simp] theorem installPlan_snap (p : Plan) : (s.installPlan p).snap = s.snap := rfl
@[simp] theorem installPlan_latency (p : Plan) : (s.installPlan p).latency = s.latency := rfl
@[simp] theorem installPlan_mem (p : Plan) : (s.installPlan p).mem = s.mem := rfl
@[simp] theorem installPlan_held (p : Plan) : (s.installPlan p).held = s.held := rfl
@[simp] theorem installPlan_host (p : Plan) : (s.installPlan p).host = s.host := rfl
@[simp] theorem installPlan_resp (p : Plan) : (s.installPlan p).resp = s.resp := rfl
@[simp] theorem installPlan_draws (p : Plan) : (s.installPlan p).draws = s.draws := rfl

/-! ### respond -/

@[simp] theorem respond_params (r : BusResp) : (s.respond r).params = s.params := rfl
@[simp] theorem respond_rstN (r : BusResp) : (s.respond r).rstN = s.rstN := rfl
@[simp] theorem respond_irqEn (r : BusResp) : (s.respond r).irqEn = s.irqEn := rfl
@[simp] theorem respond_status (r : BusResp) : (s.respond r).status = s.status := rfl
@[simp] theorem respond_errCode (r : BusResp) : (s.respond r).errCode = s.errCode := rfl
@[simp] theorem respond_cfg (r : BusResp) : (s.respond r).cfg = s.cfg := rfl
@[simp] theorem respond_planCurN (r : BusResp) : (s.respond r).planCurN = s.planCurN := rfl
@[simp] theorem respond_planM (r : BusResp) : (s.respond r).planM = s.planM := rfl
@[simp] theorem respond_planObuf (r : BusResp) : (s.respond r).planObuf = s.planObuf := rfl
@[simp] theorem respond_sgOutRows (r : BusResp) : (s.respond r).sgOutRows = s.sgOutRows := rfl
@[simp] theorem respond_sgOutFrames (r : BusResp) : (s.respond r).sgOutFrames = s.sgOutFrames := rfl
@[simp] theorem respond_sgCompFrames (r : BusResp) : (s.respond r).sgCompFrames = s.sgCompFrames := rfl
@[simp] theorem respond_plan (r : BusResp) : (s.respond r).plan = s.plan := rfl
@[simp] theorem respond_cmd (r : BusResp) : (s.respond r).cmd = s.cmd := rfl
@[simp] theorem respond_snap (r : BusResp) : (s.respond r).snap = s.snap := rfl
@[simp] theorem respond_latency (r : BusResp) : (s.respond r).latency = s.latency := rfl
@[simp] theorem respond_mem (r : BusResp) : (s.respond r).mem = s.mem := rfl
@[simp] theorem respond_held (r : BusResp) : (s.respond r).held = s.held := rfl
@[simp] theorem respond_host (r : BusResp) : (s.respond r).host = s.host := rfl
@[simp] theorem respond_resp (r : BusResp) : (s.respond r).resp = some r := rfl
@[simp] theorem respond_draws (r : BusResp) : (s.respond r).draws = s.draws := rfl

/-! ### acceptNow -/

@[simp] theorem acceptNow_params (w : Word) : (s.acceptNow w).params = s.params := rfl
@[simp] theorem acceptNow_rstN (w : Word) : (s.acceptNow w).rstN = true := rfl
@[simp] theorem acceptNow_irqEn (w : Word) : (s.acceptNow w).irqEn = s.irqEn := rfl
@[simp] theorem acceptNow_status (w : Word) : (s.acceptNow w).status = statusAccept s.status := rfl
@[simp] theorem acceptNow_errCode (w : Word) : (s.acceptNow w).errCode = errNone := rfl
@[simp] theorem acceptNow_cfg (w : Word) : (s.acceptNow w).cfg = s.cfg := rfl
@[simp] theorem acceptNow_planCurN (w : Word) : (s.acceptNow w).planCurN = s.planCurN := rfl
@[simp] theorem acceptNow_planM (w : Word) : (s.acceptNow w).planM = s.planM := rfl
@[simp] theorem acceptNow_planObuf (w : Word) : (s.acceptNow w).planObuf = s.planObuf := rfl
@[simp] theorem acceptNow_sgOutRows (w : Word) : (s.acceptNow w).sgOutRows = s.sgOutRows := rfl
@[simp] theorem acceptNow_sgOutFrames (w : Word) : (s.acceptNow w).sgOutFrames = s.sgOutFrames := rfl
@[simp] theorem acceptNow_sgCompFrames (w : Word) : (s.acceptNow w).sgCompFrames = s.sgCompFrames := rfl
@[simp] theorem acceptNow_plan (w : Word) : (s.acceptNow w).plan = s.plan := rfl
@[simp] theorem acceptNow_cmd (w : Word) : (s.acceptNow w).cmd = w := rfl
@[simp] theorem acceptNow_snap (w : Word) : (s.acceptNow w).snap = s.cfg := rfl
@[simp] theorem acceptNow_latency (w : Word) : (s.acceptNow w).latency = 0 := rfl
@[simp] theorem acceptNow_mem (w : Word) : (s.acceptNow w).mem = s.mem := rfl
@[simp] theorem acceptNow_held (w : Word) : (s.acceptNow w).held = s.held := rfl
@[simp] theorem acceptNow_host (w : Word) : (s.acceptNow w).host = s.host := rfl
@[simp] theorem acceptNow_resp (w : Word) : (s.acceptNow w).resp = s.resp := rfl
@[simp] theorem acceptNow_draws (w : Word) : (s.acceptNow w).draws = s.draws := rfl

end Sys2Proof.Machine.State
end

