-- ==== Sys2Proof/Laws/Exec.lean ====
section
/-! SUPPORT. What exec can do, said once: a command that fails a check fails with that error; one that passes
them writes as its rule says and completes, or stops at a DMEM word that nothing has written. -/

namespace Sys2Proof.Machine

variable {s : State}

/-! ## The outcomes, per command -/

@[simp] theorem exec_nop : exec .nop s = .next s.complete := rfl

theorem exec_fail {i : Instr} {e : Err} (h : commandError i s = some e) :
    exec i s = .next (s.fail e) := by
  cases i <;> simp only [commandError] at h
  · cases h
  · simp only [exec, execPlan, h]
  · simp only [exec, execFftFwd]
    split at h
    · next hp => cases h; simp only [hp]
    · next p hp => simp only [hp, h]
  · simp only [exec, execFftReal]
    split at h
    · next hp => cases h; simp only [hp]
    · next p hp => simp only [hp, h]
  · simp only [exec, execFftInv]
    split at h
    · next hp => cases h; simp only [hp]
    · next p hp => simp only [hp, h]
  · simp only [exec, execWinGen, h]
  · simp only [exec, execMelBuild, h]
  · simp only [exec, execSpectrogram, h]

theorem exec_plan_ok (h : commandError .plan s = none) :
    exec .plan s = .next (s.installPlan (buildPlan s.snap.planN.toNat)).complete := by
  simp only [commandError] at h
  simp only [exec, execPlan, h]

/-- A transform passes its checks only with a plan. -/
theorem plan_of_fftFwd_ok (h : commandError .fftFwd s = none) : ∃ p, s.plan = some p := by
  cases hp : s.plan with
  | none => simp [commandError, hp] at h
  | some p => exact ⟨p, rfl⟩

theorem plan_of_fftReal_ok (h : commandError .fftReal s = none) : ∃ p, s.plan = some p := by
  cases hp : s.plan with
  | none => simp [commandError, hp] at h
  | some p => exact ⟨p, rfl⟩

theorem plan_of_fftInv_ok (h : commandError .fftInv s = none) : ∃ p, s.plan = some p := by
  cases hp : s.plan with
  | none => simp [commandError, hp] at h
  | some p => exact ⟨p, rfl⟩

/-- SPECTROGRAM passes its checks only with a plan (check 9 of R252). -/
theorem plan_of_spectrogram_ok (h : commandError .spectrogram s = none) :
    ∃ p, s.plan = some p := by
  cases hp : s.plan with
  | none =>
    have := firstError_eq_none.1 h (s.plan.isNone, .noPlan) (by simp [sgConfigChecks])
    simp [hp] at this
  | some p => exact ⟨p, rfl⟩

theorem exec_fftFwd_ok {p : Plan} {x : List C64} (h : commandError .fftFwd s = none)
    (hp : s.plan = some p) (hx : cRead s.mem s.snap.fftSrc.toNat p.pn = some x) :
    exec .fftFwd s = .next (fftFinish s (planFwd p x)) := by
  simp only [commandError, hp] at h
  simp only [exec, execFftFwd, hp, h, hx]

theorem exec_fftReal_ok {p : Plan} {x : List F64} (h : commandError .fftReal s = none)
    (hp : s.plan = some p) (hx : memRead s.mem s.snap.fftSrc.toNat p.pn = some x) :
    exec .fftReal s = .next (fftFinish s (planReal p x)) := by
  simp only [commandError, hp] at h
  simp only [exec, execFftReal, hp, h, hx]

theorem exec_fftInv_ok {p : Plan} {x : List C64} (h : commandError .fftInv s = none)
    (hp : s.plan = some p) (hx : cRead s.mem s.snap.fftSrc.toNat p.pn = some x) :
    exec .fftInv s = .next (fftFinish s (planInv p x)) := by
  simp only [commandError, hp] at h
  simp only [exec, execFftInv, hp, h, hx]

theorem exec_winGen_ok (h : commandError .winGen s = none) :
    exec .winGen s = .next (s.engineWrite s.snap.winDst.toNat
      (window (winKind s.snap) (winPeriodic s.snap) s.snap.winLen.toNat)).complete := by
  simp only [commandError] at h
  simp only [exec, execWinGen, h]

theorem exec_melBuild_ok (h : commandError .melBuild s = none) :
    exec .melBuild s =
      .next (s.engineWrite s.snap.melDst.toNat (melMatrix s.snap)).complete := by
  simp only [commandError] at h
  simp only [exec, execMelBuild, h]

/-- The words a successful SPECTROGRAM writes. -/
def sgResult (s : State) (p : Plan) (x win mel : List F64) : List F64 :=
  spectrogramWords s.params.powerExpRule (sgOps s.snap) p x win mel

theorem exec_spectrogram_ok {p : Plan} {x win mel : List F64}
    (h : commandError .spectrogram s = none) (hp : s.plan = some p)
    (hx : memRead s.mem (sgOps s.snap).wa (sgOps s.snap).len = some x)
    (hw : memRead s.mem (sgOps s.snap).wina (sgOps s.snap).fl = some win)
    (hm : sgReadMel s.mem (sgOps s.snap) = some mel) :
    exec .spectrogram s = .next ((s.engineWrite (sgOps s.snap).out
      (sgResult s p x win mel)).setShape (sgRows (sgOps s.snap)) (sgOutCount (sgOps s.snap))
        (sgCompCount (sgOps s.snap))).complete := by
  simp only [commandError] at h
  simp only [exec, execSpectrogram, h, hp, hx, hw, hm, sgResult]

/-! ## The outcomes, all commands -/

/-- The state after phase 3 of a command that passed its checks, before its completion. -/
inductive Phase3 (s : State) : Instr → State → Prop where
  | nop : Phase3 s .nop s
  | plan : Phase3 s .plan (s.installPlan (buildPlan s.snap.planN.toNat))
  | fftFwd (p : Plan) (x : List C64) (hp : s.plan = some p)
      (hx : cRead s.mem s.snap.fftSrc.toNat p.pn = some x) :
      Phase3 s .fftFwd (s.engineWrite s.snap.fftDst.toNat (ofComplex (planFwd p x)))
  | fftReal (p : Plan) (x : List F64) (hp : s.plan = some p)
      (hx : memRead s.mem s.snap.fftSrc.toNat p.pn = some x) :
      Phase3 s .fftReal (s.engineWrite s.snap.fftDst.toNat (ofComplex (planReal p x)))
  | fftInv (p : Plan) (x : List C64) (hp : s.plan = some p)
      (hx : cRead s.mem s.snap.fftSrc.toNat p.pn = some x) :
      Phase3 s .fftInv (s.engineWrite s.snap.fftDst.toNat (ofComplex (planInv p x)))
  | winGen : Phase3 s .winGen (s.engineWrite s.snap.winDst.toNat
      (window (winKind s.snap) (winPeriodic s.snap) s.snap.winLen.toNat))
  | melBuild : Phase3 s .melBuild (s.engineWrite s.snap.melDst.toNat (melMatrix s.snap))
  | spectrogram (p : Plan) (x win mel : List F64) (hp : s.plan = some p)
      (hx : memRead s.mem (sgOps s.snap).wa (sgOps s.snap).len = some x)
      (hw : memRead s.mem (sgOps s.snap).wina (sgOps s.snap).fl = some win)
      (hm : sgReadMel s.mem (sgOps s.snap) = some mel) :
      Phase3 s .spectrogram ((s.engineWrite (sgOps s.snap).out
        (sgResult s p x win mel)).setShape (sgRows (sgOps s.snap)) (sgOutCount (sgOps s.snap))
          (sgCompCount (sgOps s.snap)))

/-- Every way exec answers: the first failing check, the completion of phase 3, or the fault of an unwritten
operand. -/
theorem exec_cases (i : Instr) (s : State) :
    (∃ e, commandError i s = some e ∧ exec i s = .next (s.fail e)) ∨
    (commandError i s = none ∧ ∃ u, Phase3 s i u ∧ exec i s = .next u.complete) ∨
    (commandError i s = none ∧ exec i s = .fault .unwrittenRead) := by
  cases hce : commandError i s with
  | some e => exact .inl ⟨e, rfl, exec_fail hce⟩
  | none =>
    refine .inr ?_
    cases i with
    | nop => exact .inl ⟨rfl, s, .nop, rfl⟩
    | plan => exact .inl ⟨rfl, _, .plan, exec_plan_ok hce⟩
    | fftFwd =>
      obtain ⟨p, hp⟩ := plan_of_fftFwd_ok hce
      cases hx : cRead s.mem s.snap.fftSrc.toNat p.pn with
      | some x => exact .inl ⟨rfl, _, .fftFwd p x hp hx, exec_fftFwd_ok hce hp hx⟩
      | none =>
        simp only [commandError, hp] at hce
        exact .inr ⟨rfl, by simp only [exec, execFftFwd, hp, hce, hx]⟩
    | fftReal =>
      obtain ⟨p, hp⟩ := plan_of_fftReal_ok hce
      cases hx : memRead s.mem s.snap.fftSrc.toNat p.pn with
      | some x => exact .inl ⟨rfl, _, .fftReal p x hp hx, exec_fftReal_ok hce hp hx⟩
      | none =>
        simp only [commandError, hp] at hce
        exact .inr ⟨rfl, by simp only [exec, execFftReal, hp, hce, hx]⟩
    | fftInv =>
      obtain ⟨p, hp⟩ := plan_of_fftInv_ok hce
      cases hx : cRead s.mem s.snap.fftSrc.toNat p.pn with
      | some x => exact .inl ⟨rfl, _, .fftInv p x hp hx, exec_fftInv_ok hce hp hx⟩
      | none =>
        simp only [commandError, hp] at hce
        exact .inr ⟨rfl, by simp only [exec, execFftInv, hp, hce, hx]⟩
    | winGen => exact .inl ⟨rfl, _, .winGen, exec_winGen_ok hce⟩
    | melBuild => exact .inl ⟨rfl, _, .melBuild, exec_melBuild_ok hce⟩
    | spectrogram =>
      obtain ⟨p, hp⟩ := plan_of_spectrogram_ok hce
      by_cases hr : ∃ x win mel, memRead s.mem (sgOps s.snap).wa (sgOps s.snap).len = some x ∧
          memRead s.mem (sgOps s.snap).wina (sgOps s.snap).fl = some win ∧
          sgReadMel s.mem (sgOps s.snap) = some mel
      · obtain ⟨x, win, mel, hx, hw, hm⟩ := hr
        exact .inl ⟨rfl, _, .spectrogram p x win mel hp hx hw hm,
          exec_spectrogram_ok hce hp hx hw hm⟩
      · refine .inr ⟨rfl, ?_⟩
        simp only [commandError] at hce
        simp only [exec, execSpectrogram, hce, hp]
        split
        · next x win mel hx hw hm => exact absurd ⟨x, win, mel, hx, hw, hm⟩ hr
        · rfl

/-- Phase 3 leaves the host's side, the configuration and the running command alone. -/
theorem Phase3.keeps {i : Instr} {u : State} (h : Phase3 s i u) :
    u.params = s.params ∧ u.rstN = s.rstN ∧ u.irqEn = s.irqEn ∧ u.errCode = s.errCode ∧
    u.cfg = s.cfg ∧ u.held = s.held ∧ u.host = s.host ∧ u.resp = s.resp ∧
    u.status.busy = s.status.busy ∧ u.status.done = s.status.done ∧
    u.status.err = s.status.err ∧ u.status.cmdOverrun = s.status.cmdOverrun := by
  cases h <;> simp

/-- The values phase 3 writes fill the command's write interval, first one first. -/
theorem Phase3.mem_eq {i : Instr} {u : State} (h : Phase3 s i u) :
    ∃ vs, vs.length = (writeSpan i s).len ∧ u.mem = memWrite s.mem (writeSpan i s).start vs := by
  cases h with
  | nop => exact ⟨[], rfl, rfl⟩
  | plan => exact ⟨[], rfl, rfl⟩
  | fftFwd p x hp hx => exact ⟨_, by simp [writeSpan, planLen, hp], rfl⟩
  | fftReal p x hp hx => exact ⟨_, by simp [writeSpan, planLen, hp], rfl⟩
  | fftInv p x hp hx => exact ⟨_, by simp [writeSpan, planLen, hp], rfl⟩
  | winGen => exact ⟨_, by simp [writeSpan], rfl⟩
  | melBuild => exact ⟨_, by simp [writeSpan], rfl⟩
  | spectrogram p x win mel hp hx hw hm =>
    exact ⟨_, by simp [writeSpan, sgWrites, sgResult], rfl⟩

end Sys2Proof.Machine
end

