-- ==== Sys2Proof/Laws/F64.lean ====
section
/-! SUPPORT. The layout of binary64 values (R83) by numbers, and what a rounded value is: never NaN, of the sign it
is given, an infinity at most. -/

namespace Sys2Proof.Machine

theorem fexpo_eq (a : F64) : fexpo a = a.toNat / 2 ^ 52 % 2 ^ 11 := by
  simp [fexpo, BitVec.extractLsb'_toNat, Nat.shiftRight_eq_div_pow]

theorem ffrac_eq (a : F64) : ffrac a = a.toNat % 2 ^ 52 := by
  simp [ffrac, BitVec.extractLsb'_toNat]

theorem fsign_eq (a : F64) : fsign a = decide (2 ^ 63 ≤ a.toNat) := by
  have h := a.isLt
  rw [fsign, BitVec.getLsbD, Nat.testBit_eq_decide_div_mod_eq, decide_eq_decide]
  omega

theorem toNat_fpack {bits : Nat} (neg : Bool) (h : bits < 2 ^ 63) :
    (fpack neg bits).toNat = bits + if neg then 2 ^ 63 else 0 := by
  rw [fpack, BitVec.toNat_ofNat, Nat.mod_eq_of_lt]
  cases neg
  · simp; omega
  · simp; omega

theorem fsign_fpack {bits : Nat} (neg : Bool) (h : bits < 2 ^ 63) :
    fsign (fpack neg bits) = neg := by
  rw [fsign_eq, toNat_fpack neg h]
  cases neg
  · simp; omega
  · simp

theorem fexpo_fpack {bits : Nat} (neg : Bool) (h : bits < 2 ^ 63) :
    fexpo (fpack neg bits) = bits / 2 ^ 52 := by
  rw [fexpo_eq, toNat_fpack neg h]
  cases neg
  · simp; omega
  · simp; omega

theorem ffrac_fpack {bits : Nat} (neg : Bool) (h : bits < 2 ^ 63) :
    ffrac (fpack neg bits) = bits % 2 ^ 52 := by
  rw [ffrac_eq, toNat_fpack neg h]
  cases neg
  · simp
  · simp; omega

theorem roundMag_le (n d : Nat) : roundMag n d ≤ 0x7FF0000000000000 := by
  unfold roundMag
  exact Nat.min_le_right _ _

theorem roundMag_lt (n d : Nat) : roundMag n d < 2 ^ 63 := by
  have := roundMag_le n d
  omega

@[simp] theorem fsign_fround (neg : Bool) (n d : Nat) : fsign (fround neg n d) = neg :=
  fsign_fpack neg (roundMag_lt n d)

/-- A rounded value is never NaN. -/
@[simp] theorem fisNaN_fround (neg : Bool) (n d : Nat) : fisNaN (fround neg n d) = false := by
  have h := roundMag_le n d
  rw [fisNaN, fround, fexpo_fpack neg (roundMag_lt n d), ffrac_fpack neg (roundMag_lt n d)]
  simp only [Bool.and_eq_false_iff, beq_eq_false_iff_ne, bne_eq_false_iff_eq]
  omega

/-- Zero rounds to the zero of the given sign. -/
theorem fround_zero (neg : Bool) (d : Nat) : fround neg 0 d = fpack neg 0 := by
  have : roundMag 0 d = 0 := by simp [roundMag]
  rw [fround, this]

/-! ## The sign flip -/

@[simp] theorem fsign_fneg (a : F64) : fsign (fneg a) = !fsign a := by
  simp [fsign, fneg]

@[simp] theorem fexpo_fneg (a : F64) : fexpo (fneg a) = fexpo a := by
  have : (fneg a).extractLsb' 52 11 = a.extractLsb' 52 11 := by
    rw [fneg, BitVec.extractLsb'_xor]
    simp
  rw [fexpo, this, fexpo]

@[simp] theorem ffrac_fneg (a : F64) : ffrac (fneg a) = ffrac a := by
  have : (fneg a).extractLsb' 0 52 = a.extractLsb' 0 52 := by
    rw [fneg, BitVec.extractLsb'_xor]
    simp
  rw [ffrac, this, ffrac]

@[simp] theorem fneg_fneg (a : F64) : fneg (fneg a) = a := by
  simp [fneg]

@[simp] theorem fisNaN_fneg (a : F64) : fisNaN (fneg a) = fisNaN a := by simp [fisNaN]

@[simp] theorem fisFinite_fneg (a : F64) : fisFinite (fneg a) = fisFinite a := by simp [fisFinite]

@[simp] theorem fmag_fneg (a : F64) : fmag (fneg a) = fmag a := by simp [fmag]

@[simp] theorem funits_fneg (a : F64) : funits (fneg a) = -funits a := by
  simp only [funits, fsign_fneg, fmag_fneg]
  cases fsign a <;> simp

end Sys2Proof.Machine
end

