-- ==== Sys2Proof/Laws/Operands.lean ====
section
/-! SUPPORT. The buffer checks of R90 and R91 as arithmetic. -/

namespace Sys2Proof.Machine

theorem outOfRange_iff {p : Params} {i : Interval} :
    outOfRange p i = true ↔ i.len ≠ 0 ∧ dmemWords p < i.start + i.len := by
  simp [outOfRange]

theorem overlaps_iff {i j : Interval} :
    overlaps i j = true ↔
      i.len ≠ 0 ∧ j.len ≠ 0 ∧ i.start < j.start + j.len ∧ j.start < i.start + i.len := by
  simp [overlaps, and_assoc]

theorem anyOutOfRange_iff {p : Params} {is : List Interval} :
    anyOutOfRange p is = true ↔ ∃ i ∈ is, outOfRange p i = true := by
  simp [anyOutOfRange]

theorem anyAlias_iff {reads : List Interval} {write : Interval} :
    anyAlias reads write = true ↔ ∃ r ∈ reads, overlaps write r = true := by
  simp [anyAlias]

end Sys2Proof.Machine
end

