-- ==== Sys2Proof/Laws/PerInstr.lean ====
section
/-! SUPPORT. Facts made per command: the table row's word decodes to the command, in the table's own numbering of
bits, and the command's raw word passes both checks of format C. -/

namespace Sys2Proof.Laws.TableWord

/-- The command's word, laid out as the host lays it out, decodes to the command and is well formed. -/
def Statement (i : Instr) : Prop :=
  decodeTableWord 64 (encode i).toNat = some i ∧ (rawCmd (encode i)).WellFormed = true
    ∧ i.WellFormed = true

theorem nop : Statement .nop := ⟨by decide, by decide, rfl⟩
theorem plan : Statement .plan := ⟨by decide, by decide, rfl⟩
theorem fftFwd : Statement .fftFwd := ⟨by decide, by decide, rfl⟩
theorem fftReal : Statement .fftReal := ⟨by decide, by decide, rfl⟩
theorem fftInv : Statement .fftInv := ⟨by decide, by decide, rfl⟩
theorem winGen : Statement .winGen := ⟨by decide, by decide, rfl⟩
theorem melBuild : Statement .melBuild := ⟨by decide, by decide, rfl⟩
theorem spectrogram : Statement .spectrogram := ⟨by decide, by decide, rfl⟩

end Sys2Proof.Laws.TableWord
end

