-- ==== Sys2Proof/Laws/Plan.lean ====
section
/-! SUPPORT. The powers of two of R9, and what a plan that PLAN builds looks like (R44, R140, R145). -/

namespace Sys2Proof.Machine

theorem isPow2_iff {n : Nat} : isPow2 n = true ↔ ∃ p, n = 2 ^ p := by
  unfold isPow2
  simp only [Bool.and_eq_true, decide_eq_true_eq, beq_iff_eq]
  constructor
  · rintro ⟨_, h⟩; exact ⟨_, h.symm⟩
  · rintro ⟨p, rfl⟩; exact ⟨Nat.one_le_two_pow, by rw [Nat.log2_two_pow]⟩

theorem nextPow2_ge (n : Nat) : n ≤ nextPow2 n := by
  unfold nextPow2
  split
  · omega
  · have := Nat.lt_log2_self (n := n - 1)
    omega

theorem buildPlan_innerLen (n : Nat) :
    (buildPlan n).innerLen = if isPow2 n then 0 else nextPow2 (2 * n - 1) := by
  unfold buildPlan; split <;> simp [Plan.innerLen, *]

theorem buildPlan_obuf (n : Nat) :
    (buildPlan n).obuf = if isPow2 n then 2 * n else 2 * nextPow2 (2 * n - 1) := by
  unfold buildPlan; split <;> simp [Plan.obuf, *]

theorem checkPlanLength_none {p : Params} {n : Nat} (h : checkPlanLength p n = none) :
    1 < n ∧ (isPow2 n = true → n ≤ 2 ^ p.planMaxLog2) ∧
    (isPow2 n = false → nextPow2 (2 * n - 1) ≤ 2 ^ p.planMaxLog2) := by
  have := firstError_eq_none.1 h
  simp at this
  obtain ⟨a, b, c⟩ := this
  exact ⟨a, b, c⟩

/-- A plan that PLAN accepts shows in 32-bit registers, and its destination holds the 2N words written. -/
theorem buildPlan_bounds {p : Params} {n : Nat} (hp : p.Legal) (h : checkPlanLength p n = none) :
    2 * n ≤ (buildPlan n).obuf ∧ (buildPlan n).obuf < 2 ^ 32 ∧
    (buildPlan n).innerLen < 2 ^ 32 ∧ n < 2 ^ 32 := by
  obtain ⟨h1, h2, h3⟩ := checkPlanLength_none h
  have hm : 2 ^ p.planMaxLog2 ≤ 2 ^ 24 := Nat.pow_le_pow_right (by decide) hp.2.2.2
  rw [buildPlan_obuf, buildPlan_innerLen]
  have := nextPow2_ge (2 * n - 1)
  cases hi : isPow2 n
  · have := h3 hi; simp; omega
  · have := h2 hi; simp; omega

end Sys2Proof.Machine
end

