-- ==== Sys2Proof/Laws/Registers.lean ====
section
/-! SUPPORT. Small facts about the register block and one bus transaction. -/

namespace Sys2Proof.Machine

@[simp] theorem regAt_regOffset (r : Reg) : regAt (regOffset r) = some r := by cases r <;> decide

theorem regOffset_lt (r : Reg) : regOffset r ≤ 0xFFF := by cases r <;> decide

theorem regOffset_aligned (r : Reg) : regOffset r % 8 = 0 := by cases r <;> decide

@[simp] theorem inRegBlock_regOffset (r : Reg) : inRegBlock (regOffset r) = true := by
  simp [inRegBlock, regOffset_lt]

/-- The register block lies below the DMEM window. -/
theorem not_inDmemWindow_of_inRegBlock {p : Params} {a : Nat} (h : inRegBlock a = true) :
    inDmemWindow p a = false := by
  simp only [inRegBlock, decide_eq_true_eq] at h
  simp only [inDmemWindow, dmemBase]
  have : ¬ (0x00100000 ≤ a) := by omega
  simp [this]

theorem busAccess_regRead (r : Reg) (s : State) :
    busAccess { addr := regOffset r, size := 8, kind := .read } s
      = .next (s.respond (.readData (readReg s r))) := by
  simp [busAccess, regAccess, wholeWord, regOffset_aligned]

theorem busAccess_regWrite (r : Reg) (w : Word) (s : State) :
    busAccess { addr := regOffset r, size := 8, kind := .write w } s
      = .next ((writeReg r w s).respond .writeOk) := by
  simp [busAccess, regAccess, wholeWord, regOffset_aligned]

/-- A register access is never held (R88). -/
theorem busIssue_reg (t : BusTxn) (s : State) (h : inRegBlock t.addr = true) :
    busIssue t s = .next (regAccess t s) := by
  simp [busIssue, busAccess, h, not_inDmemWindow_of_inRegBlock h]

/-- What a register write can change: CTRL, STATUS, a configuration register, or what an accepted or rejected
command changes. -/
theorem writeReg_keeps (r : Reg) (w : Word) (s : State) :
    (writeReg r w s).params = s.params ∧ (writeReg r w s).rstN = s.rstN ∧
    (writeReg r w s).planCurN = s.planCurN ∧ (writeReg r w s).planM = s.planM ∧
    (writeReg r w s).planObuf = s.planObuf ∧ (writeReg r w s).sgOutRows = s.sgOutRows ∧
    (writeReg r w s).sgOutFrames = s.sgOutFrames ∧ (writeReg r w s).sgCompFrames = s.sgCompFrames ∧
    (writeReg r w s).plan = s.plan ∧ (writeReg r w s).mem = s.mem ∧
    (writeReg r w s).held = s.held ∧ (writeReg r w s).host = s.host := by
  cases r <;> simp only [writeReg, writeCmd, and_self]
  split <;> simp

variable {s : State}

/-! ## One bus transaction, in all its cases -/

theorem inDmemWindow_iff {p : Params} {a : Nat} :
    inDmemWindow p a = true ↔ 0x00100000 ≤ a ∧ a < 0x00100000 + 8 * dmemWords p := by
  rw [inDmemWindow, Bool.and_eq_true, decide_eq_true_eq, decide_eq_true_eq]; exact Iff.rfl

theorem wholeWord_iff {t : BusTxn} : wholeWord t = true ↔ t.size = 8 ∧ t.addr % 8 = 0 := by
  simp [wholeWord]

theorem regAt_eq_some {a : Nat} {r : Reg} (h : regAt a = some r) : a = regOffset r := by
  have := List.find?_some h
  simpa using (beq_iff_eq.mp this).symm

/-- What one bus transaction can do when it does not fault: an answer and nothing else, a register write, or a
write of one DMEM word inside the window. -/
theorem busAccess_cases {t : BusTxn} {u : State} (h : busAccess t s = .next u) :
    (∃ r, u = s.respond r) ∨
    (∃ r w, t = { addr := regOffset r, size := 8, kind := .write w } ∧
      u = (writeReg r w s).respond .writeOk) ∨
    (∃ k w, k < dmemWords s.params ∧ t = { addr := byteAddr k 0, size := 8, kind := .write w } ∧
      u = { s with mem := s.mem.writeWord k w, resp := some .writeOk }) := by
  obtain ⟨a, n, kind⟩ := t
  simp only [busAccess] at h
  split at h
  · cases h
    simp only [regAccess]
    split
    · rename_i hw
      have hn : n = 8 := by simp [wholeWord] at hw; exact hw.1
      subst hn
      cases kind with
      | read => cases hr : regAt a <;> exact .inl ⟨_, rfl⟩
      | write w =>
        cases hr : regAt a with
        | none => exact .inl ⟨_, rfl⟩
        | some r => exact .inr (.inl ⟨r, w, by rw [regAt_eq_some hr], rfl⟩)
    · exact .inl ⟨_, rfl⟩
  · split at h
    · rename_i hin
      simp only [dmemAccess] at h
      split at h
      · rename_i hw
        rw [wholeWord_iff] at hw
        rw [inDmemWindow_iff] at hin
        dsimp only at hw hin
        obtain ⟨rfl, ha⟩ := hw
        cases kind with
        | read =>
          simp only at h
          split at h
          · cases h; exact .inl ⟨_, rfl⟩
          · cases h
        | write w =>
          cases h
          refine .inr (.inr ⟨windowWord a, w, ?_, ?_, rfl⟩)
          · simp only [windowWord, dmemBase]; omega
          · simp only [windowWord, dmemBase, byteAddr, BusTxn.mk.injEq, and_true]; omega
      · cases h; exact .inl ⟨_, rfl⟩
    · cases h; exact .inl ⟨_, rfl⟩

end Sys2Proof.Machine
end

