-- ==== Sys2Proof/Laws/Step.lean ====
section
/-! SUPPORT. One step, by whose turn it is, and the engine's turn in all its cases. -/

namespace Sys2Proof.Machine

variable {s : State}

theorem step_engine (h : turn s = .engine) : step s = engineStep s := by simp [step, h]

theorem step_host (h : turn s = .host) : step s = hostStep s := by simp [step, h]

/-! ## Runs of the machine -/

theorem run_next {u : State} (k : Nat) (h : step s = .next u) :
    Host.Core.run Sys2Proof.core (k + 1) s = Host.Core.run Sys2Proof.core k u := by
  have h' : Sys2Proof.core.step s = .next u := h
  simp only [Host.Core.run, h']

theorem run_fault {r : Fault} (k : Nat) (h : step s = .fault r) :
    Host.Core.run Sys2Proof.core (k + 1) s = .fault r := by
  have h' : Sys2Proof.core.step s = .fault r := h
  simp only [Host.Core.run, h']

/-! ## Turns -/

theorem turn_engine_iff :
    turn s = .engine ↔
      s.rstN = true ∧ s.status.busy = true ∧ (s.latency = 0 ∨ hostMoves s = false) := by
  simp only [turn]
  cases s.rstN <;> cases s.status.busy <;> by_cases h : s.latency = 0 <;>
    cases hm : hostMoves s <;> simp [h]

theorem turn_acceptNow (w : Word) : turn (s.acceptNow w) = .engine := by
  simp [turn_engine_iff]

theorem engineStep_ok {i : Instr} (h : decode s.cmd = .ok i) : engineStep s = exec i s := by
  simp [engineStep, h]

theorem engineStep_illegal {e : Illegal} (h : decode s.cmd = .error e) :
    engineStep s = .next (s.fail .illegalCmd) := by simp [engineStep, h]

/-- The engine's turn: a failure, a completion, or the fault of an unwritten operand. -/
theorem engineStep_cases (s : State) :
    (∃ e, engineStep s = .next (s.fail e)) ∨
    (∃ i u, decode s.cmd = .ok i ∧ commandError i s = none ∧ Phase3 s i u ∧
      engineStep s = .next u.complete) ∨
    engineStep s = .fault .unwrittenRead := by
  cases hd : decode s.cmd with
  | error e => exact .inl ⟨_, engineStep_illegal hd⟩
  | ok i =>
    rw [engineStep_ok hd]
    rcases exec_cases i s with ⟨e, _, h⟩ | ⟨hn, u, hu, h⟩ | ⟨_, h⟩
    · exact .inl ⟨e, h⟩
    · exact .inr (.inl ⟨i, u, rfl, hn, hu, h⟩)
    · exact .inr (.inr h)

/-- Every way the host's turn ends in a next state. -/
theorem hostStep_cases {u : State} (h : hostStep s = .next u) :
    u = s ∨
    (∃ op rest, s.rstN = false ∧ s.host = op :: rest ∧
      u = serveInReset op { s with host := rest }) ∨
    (∃ t, s.rstN = true ∧ s.status.busy = false ∧ s.held = some t ∧
      busAccess t { s with held := none } = .next u) ∨
    (∃ op rest, s.rstN = true ∧ (s.status.busy = true ∨ s.held = none) ∧ s.host = op :: rest ∧
      serve op { s with host := rest, latency := s.latency - 1 } = .next u) := by
  cases hr : s.rstN <;> cases hb : s.status.busy <;> cases hh : s.held <;> cases ho : s.host <;>
    simp only [hostStep, hr, hb, hh, ho] at h <;>
    first
      | (cases h; exact .inl rfl)
      | (cases h; exact .inr (.inl ⟨_, _, rfl, rfl, rfl⟩))
      | exact .inr (.inr (.inl ⟨_, rfl, rfl, rfl, h⟩))
      | exact .inr (.inr (.inr ⟨_, _, rfl, .inl rfl, rfl, h⟩))
      | exact .inr (.inr (.inr ⟨_, _, rfl, .inr rfl, rfl, h⟩))
end Sys2Proof.Machine
end

