-- ==== Sys2Proof/Tests/Slice0.lean ====
section
/-! SUPPORT. Small tests, their expected results from the spec's tables and vectors (95_test_vectors.md) or
worked out by hand from its rules, and a witness for the hypotheses of each obligation. -/

/- One theorem at a time: with a task each, the package compiled as one text needs a thread for every test that
waits for the one before it. -/
set_option Elab.async false

namespace Sys2Proof.Tests
open Sys2Proof Sys2Proof.Machine

/-! ## Well-formed words (R110, R111) -/

theorem test_wf_accepts : ({ rsvd := 0, opcode := 0x12 } : RawCmd).WellFormed = true := by decide
/-- The reserved bits are checked. -/
theorem test_wf_refuses_rsvd : ({ rsvd := 1, opcode := 0x12 } : RawCmd).WellFormed = false := by decide
/-- The opcode is checked. -/
theorem test_wf_refuses_opcode : ({ rsvd := 0, opcode := 0x41 } : RawCmd).WellFormed = false := by decide

/-! ## Decoding: R112's words, written out from its table -/

theorem test_decode_nop : decode 0x0000000000000000#64 = .ok .nop := by decide
theorem test_decode_plan : decode 0x0000000000000001#64 = .ok .plan := by decide
theorem test_decode_fftFwd : decode 0x0000000000000010#64 = .ok .fftFwd := by decide
theorem test_decode_fftReal : decode 0x0000000000000011#64 = .ok .fftReal := by decide
theorem test_decode_fftInv : decode 0x0000000000000012#64 = .ok .fftInv := by decide
theorem test_decode_winGen : decode 0x0000000000000020#64 = .ok .winGen := by decide
theorem test_decode_melBuild : decode 0x0000000000000030#64 = .ok .melBuild := by decide
theorem test_decode_spectrogram : decode 0x0000000000000040#64 = .ok .spectrogram := by decide
/-- V-CTL-3's illegal words. -/
theorem test_decode_illegal :
    decode 0x0000000000000100#64 = .error .reservedBits ∧
    decode 0x0000000000000002#64 = .error (.unknownOpcode 0x02) ∧
    decode 0x00000000000000FF#64 = .error (.unknownOpcode 0xFF) ∧
    decode 0x8000000000000010#64 = .error .reservedBits ∧
    decode 0x0000000000000013#64 = .error (.unknownOpcode 0x13) := by decide
/-- Bytes lowest address first (R82); seven bytes are no command word (R118). -/
theorem test_decode_bytes :
    decodeBytes [0x12, 0, 0, 0, 0, 0, 0, 0, 0x55] = .ok (.fftInv, [0x55]) ∧
    decodeBytes [0, 0, 0, 0, 0, 0, 0, 0x12] = .error .reservedBits ∧
    decodeBytes [0, 0, 0, 0, 0, 0, 0] = .error .truncated := by decide

/-! ## Helpers -/

/-- The binary64 values of small whole numbers. -/
def ints (ns : List Int) : List F64 := ns.map f64OfInt

/-- The words a..a+n-1 of an outcome's DMEM. -/
def outWords (o : Host.Outcome State Fault Refusal) (a n : Nat) : Option (List F64) :=
  match o with
  | .next t => memRead t.mem a n
  | .fault _ => none
  | .refused _ => none

/-- STATUS and ERR_CODE after an outcome. -/
def outStatus (o : Host.Outcome State Fault Refusal) : Option (Word × Word) :=
  match o with
  | .next t => some (readReg t .STATUS, readReg t .ERR_CODE)
  | .fault _ => none
  | .refused _ => none

/-- The bus target's answer after an outcome. -/
def outResp (o : Host.Outcome State Fault Refusal) : Option (Option BusResp) :=
  match o with
  | .next t => some t.resp
  | .fault _ => none
  | .refused _ => none

/-- A running command `i` with snapshot `c`, from reset. -/
def running (i : Instr) (c : ConfigRegs) : State :=
  ({ State.reset with cfg := c }).acceptNow (encode i)

/-- A running transform with a plan for `n` and `xs` at FFT_SRC. -/
def fftState (i : Instr) (n src dst : Nat) (xs : List F64) : State :=
  { ((running i { ConfigRegs.zero with fftSrc := BitVec.ofNat 32 src,
                                        fftDst := BitVec.ofNat 32 dst }).installPlan (buildPlan n)) with
    mem := memWrite [] src xs }

/-- A running WIN_GEN. -/
def winState (dst len : BitVec 32) (cfg : BitVec 5) : State :=
  running .winGen { ConfigRegs.zero with winDst := dst, winLen := len, winCfg := cfg }

/-- A running MEL_BUILD with V-MEL-1's registers: 0 to 4000 Hz, 8000 Hz. -/
def melState (dst nb nf : BitVec 32) (cfg : BitVec 9) : State :=
  running .melBuild { ConfigRegs.zero with
    melDst := dst, melNbins := nb, melNfilt := nf, melCfg := cfg, melFmin := fzero,
    melFmax := 0x40AF400000000000#64, melSr := 0x40BF400000000000#64 }

/-- The binary64 value nearest 1e-10. -/
def tenthNano : F64 := 0x3DDB7CDFD9D7BDBB#64

/-- The base configuration of 95_test_vectors.md's spectrogram family. -/
def sgBase (cfg : BitVec 17) : ConfigRegs :=
  { ConfigRegs.zero with
    sgWaveLen := 6, sgFrameLen := 4, sgFftLen := 4, sgHop := 2, sgWinAddr := 8, sgWinLen := 4,
    sgOutAddr := 16, sgPower := ftwo, sgMelFloor := tenthNano, sgRef := fone,
    sgMinValue := tenthNano, sgCfg := cfg }

/-- A running SPECTROGRAM with configuration `c`, a plan for N = 4, and the base waveform and window. -/
def sgState (c : ConfigRegs) : State :=
  { ((running .spectrogram c).installPlan (buildPlan 4)) with
    mem := memWrite (memWrite [] 0 (ints [1, 2, 3, 4, 5, 6])) 8 (ints [1, 1, 1, 1]) }

/-! ## binary64 -/

/-- 0.1 + 0.2 rounds up; 1 + 2^-53 is a tie that goes to the even 1.0; the largest value plus half a unit in its
last place overflows; half the least subnormal ties to zero. -/
theorem test_f64_add_mul :
    fadd 0x3FB999999999999A#64 0x3FC999999999999A#64 = 0x3FD3333333333334#64 ∧
    fadd fone 0x3CA0000000000000#64 = fone ∧
    fadd 0x7FEFFFFFFFFFFFFF#64 0x7C90000000000000#64 = finf ∧
    fmul 0x8000000000000001#64 0x3FE0000000000000#64 = 0x8000000000000000#64 ∧
    fadd fone (fneg fone) = fzero := by decide +kernel
/-- 1/3 and the square root of 2, to nearest; 0/0 and inf - inf are NaN. -/
theorem test_f64_div_sqrt :
    fdiv fone 0x4008000000000000#64 = 0x3FD5555555555555#64 ∧
    fsqrt ftwo = 0x3FF6A09E667F3BCD#64 ∧
    fisNaN (fdiv fzero fzero) = true ∧ fisNaN (fsub finf finf) = true ∧
    fdiv fone 0x8000000000000000#64 = fninf := by decide +kernel
/-- The literals of 41_window.md and P4 (R120, R200, R205). -/
theorem test_f64_literals :
    f64OfDecimal false 54 (-2) = 0x3FE147AE147AE148#64 ∧
    f64OfDecimal false 85 (-2) = 0x3FEB333333333333#64 ∧
    f64OfDecimal false 1 (-10) = tenthNano ∧ f64OfDecimal true 0 0 = 0x8000000000000000#64 ∧
    f64OfNat 4000 = 0x40AF400000000000#64 := by decide +kernel

/-! ## Registers, reset and the command's life -/

/-- V-CTL-1. -/
theorem test_reset_registers :
    readReg State.reset .ID = 0x0000000753544646#64 ∧ readReg State.reset .HWCFG = 0x1014#64 ∧
    readReg State.reset .STATUS = 0 ∧ irq State.reset = false := by decide
/-- V-CTL-2: NOP from reset. -/
theorem test_nop :
    outStatus (step (State.reset.withFetchWord 64 0x00)) = some (0x02#64, 0#64) := by decide
/-- V-CTL-3: an unlisted opcode. -/
theorem test_illegal :
    outStatus (step (State.reset.withFetchWord 64 0xFF)) = some (0x06#64, 0xFF01#64) := by decide
/-- V-CTL-4: with IRQ_EN = 1 a completed command raises irq; a write of 0x31 to STATUS changes nothing, one of
0xE acknowledges. -/
theorem test_irq_and_acknowledge :
    irq { State.reset.complete with irqEn := true } = true ∧
    writeReg .STATUS 0x31 State.reset.complete = State.reset.complete ∧
    readReg (writeReg .STATUS 0xE State.reset.complete) .STATUS = 0 := by decide
/-- R84, R85, R99: a 32-bit access, an address outside both regions, an unlisted offset, an unwritten word. -/
theorem test_bus :
    outResp (busAccess { addr := 0x10, size := 4, kind := .read } State.reset)
      = some (some .busError) ∧
    outResp (busAccess { addr := 0x1000, size := 8, kind := .read } State.reset)
      = some (some .busError) ∧
    outResp (busAccess { addr := 0x30, size := 8, kind := .read } State.reset)
      = some (some (.readData 0)) ∧
    outResp (busAccess { addr := 0x100008, size := 8, kind := .read } State.reset)
      = none := by decide +kernel
/-- R121: WRF replaces SG_CFG.LOG_MEL (bits 11:9) and nothing else. -/
theorem test_write_field :
    fieldMask .SG_CFG_LOG_MEL = 0xE00#64 ∧ fieldValue .SG_CFG_LOG_MEL 3 = 0x600#64 ∧
    fieldOf .SG_CFG_LOG_MEL 0x1630#64 = 3 := by decide +kernel

/-! ## The commands -/

/-- V-FFT-15: PLAN_N = 400. -/
theorem test_plan_400 :
    (match exec .plan (running .plan { ConfigRegs.zero with planN := 400 }) with
      | .next t => some (t.planCurN, t.planM, t.planObuf, readReg t .STATUS)
      | .fault _ => none
      | .refused _ => none) = some (400#32, 1024#32, 2048#32, 0x32#64) := by decide +kernel
/-- V-FFT-15: PLAN_N = 1 and PLAN_N = 32769. -/
theorem test_plan_errors :
    outStatus (exec .plan (running .plan { ConfigRegs.zero with planN := 1 }))
      = some (0x06#64, 0x0103#64) ∧
    outStatus (exec .plan (running .plan { ConfigRegs.zero with planN := 32769 }))
      = some (0x06#64, 0x0104#64) := by decide +kernel
/-- V-FFT-2. -/
theorem test_fftFwd :
    outWords (exec .fftFwd (fftState .fftFwd 4 0 8 (ints [1, 0, 2, 0, 3, 0, 4, 0]))) 8 8
      = some [0x4024000000000000, 0x0000000000000000, 0xC000000000000000, 0x4000000000000000,
              0xC000000000000000, 0x0000000000000000, 0xC000000000000000, 0xC000000000000000] := by
  decide +kernel
/-- V-FFT-16: SRC = DST = 0 aliases. -/
theorem test_fftFwd_alias :
    outStatus (exec .fftFwd (fftState .fftFwd 4 0 0 [])) = some (0x16#64, 0x1006#64) := by
  decide +kernel
/-- V-FFT-5. -/
theorem test_fftReal :
    outWords (exec .fftReal (fftState .fftReal 4 0 8 (ints [1, 2, 3, 4]))) 8 8
      = some [0x4024000000000000, 0x0000000000000000, 0xC000000000000000, 0x4000000000000000,
              0xC000000000000000, 0x0000000000000000, 0xC000000000000000, 0xC000000000000000] := by
  decide +kernel
/-- V-FFT-7. -/
theorem test_fftInv :
    outWords (exec .fftInv (fftState .fftInv 4 8 16 (ints [10, 0, -2, 2, -2, 0, -2, -2]))) 16 8
      = some [0x3FF0000000000000, 0, 0x4000000000000000, 0, 0x4008000000000000, 0,
              0x4010000000000000, 0] := by decide +kernel
/-- V-FFT-9: the bit-reversal table of N = 8. -/
theorem test_bit_reversal : brevTable 8 = [0, 4, 2, 6, 1, 5, 3, 7] := by decide +kernel
/-- V-FFT-16: the checks of a Bluestein destination cover all 2M words. -/
theorem test_fft_range :
    commandError .fftFwd (fftState .fftFwd 3 0 1048566 []) = some .range ∧
    commandError .fftFwd (fftState .fftFwd 3 0 10 []) = none ∧
    commandError .fftFwd (fftState .fftFwd 3 12 0 []) = some .aliasing := by decide +kernel
/-- V-WIN-6: boxcar, length 1, and length 0. -/
theorem test_winGen :
    outWords (exec .winGen (winState 5 3 0x10)) 5 3 = some [fone, fone, fone] ∧
    outWords (exec .winGen (winState 5 1 0x12)) 5 1 = some [fone] ∧
    outStatus (exec .winGen (winState 5 0 0x01)) = some (0x02#64, 0#64) := by decide +kernel
/-- V-WIN-7. -/
theorem test_winGen_errors :
    outStatus (exec .winGen (winState 1048570 8 0x04)) = some (0x06#64, 0x2010#64) ∧
    outStatus (exec .winGen (winState 1048570 8 0x01)) = some (0x06#64, 0x2005#64) ∧
    commandError .winGen (winState 1048570 6 0x01) = none := by decide +kernel
/-- V-MEL-9. -/
theorem test_melBuild_errors :
    commandError .melBuild (melState 0 5 1 0x32) = some .invalidNorm ∧
    commandError .melBuild (melState 0 5 1 0x30) = some .invalidMelScale ∧
    commandError .melBuild (melState 0 1 1 0x00) = some .melDims ∧
    commandError .melBuild (melState 1048572 5 1 0x00) = some .range := by decide +kernel
/-- R226 by hand: half way up, the peak, three quarters down, outside; and V-MEL-8's linear branch. -/
theorem test_mel_pieces :
    triWeight fone fzero ftwo (f64OfNat 4) = 0x3FE0000000000000#64 ∧
    triWeight ftwo fzero ftwo (f64OfNat 4) = fone ∧
    triWeight 0x400C000000000000#64 fzero ftwo (f64OfNat 4) = 0x3FD0000000000000#64 ∧
    triWeight (f64OfNat 5) fzero ftwo (f64OfNat 4) = fzero ∧
    hzToMel 2 (f64OfNat 500) = 0x401E000000000000#64 := by decide +kernel
/-- V-SG-1. -/
theorem test_spectrogram :
    outWords (exec .spectrogram (sgState (sgBase 0x30))) 16 6
      = some (ints [100, 324, 8, 8, 4, 4]) := by decide +kernel
/-- V-SG-26, its rows one by one, and the order of two failing checks. -/
theorem test_spectrogram_errors :
    commandError .spectrogram (sgState { sgBase 0x630 with sgFrameLen := 5 }) = some .frameLen ∧
    commandError .spectrogram (sgState { sgBase 0x630 with sgFrameLen := 0, sgHop := 0 })
      = some .frameLen ∧
    commandError .spectrogram (sgState { sgBase 0x630 with sgWinLen := 3 }) = some .windowLen ∧
    commandError .spectrogram (sgState { sgBase 0x630 with sgHop := 0 }) = some .hop ∧
    commandError .spectrogram (sgState (sgBase 0x710)) = some .complexMel ∧
    commandError .spectrogram (sgState (sgBase 0x632)) = some .notImplemented ∧
    commandError .spectrogram (sgState (sgBase 0x830)) = some .logMelCode ∧
    commandError .spectrogram (sgState { sgBase 0x630 with sgPower := fnan }) = some .dbPower ∧
    commandError .spectrogram (sgState { sgBase 0x630 with sgRef := fzero }) = some .dbParam ∧
    commandError .spectrogram (running .spectrogram (sgBase 0x630)) = some .noPlan ∧
    commandError .spectrogram ((sgState (sgBase 0x630)).installPlan (buildPlan 8))
      = some .planMismatch ∧
    commandError .spectrogram (sgState { sgBase 0x730 with sgMelRows := 2, sgMelCols := 2 })
      = some .melMismatch ∧
    commandError .spectrogram (sgState { sgBase 0x630 with sgOutAddr := 1048572 }) = some .range ∧
    commandError .spectrogram (sgState { sgBase 0x630 with sgOutAddr := 10 }) = some .aliasing ∧
    commandError .spectrogram (sgState { sgBase 0x30 with sgPower := f64OfNat 3 }) = none := by
  decide +kernel
/-- V-SG-12's padded waveform and V-SG-25's frame counts. -/
theorem test_framing :
    (List.range 10).map (fun i => reflIndex ((i : Int) - 2) 6) = [2, 1, 0, 1, 2, 3, 4, 5, 4, 3] ∧
    sgOutCount { sgOps (sgBase 0x30) with len := 16000, fl := 400, hop := 160, nfft := 512 } = 98 ∧
    sgOutCount { sgOps (sgBase 0x31) with len := 16000, fl := 400, hop := 160, nfft := 512 } = 101 := by
  decide +kernel

/-! ## Witnesses: for each obligation with hypotheses, states and operands that meet them together -/

/-- The host writes CMD while the engine idles. -/
def idleWrite : State := { State.reset with host := [regWrite .CMD 1] }

/-- The host writes CMD while a NOP runs that completes later. -/
def busyWrite : State := { running .nop ConfigRegs.zero with latency := 1, host := [regWrite .CMD 1] }

/-- A host read of DMEM word 0. -/
def dmemRead : BusTxn := { addr := 0x100000, size := 8, kind := .read }

theorem witness_IllegalWordFailsAndDoesNothingElse :
    (turn (State.reset.acceptNow 0x100) = .engine ∧
      (State.reset.acceptNow 0x100).cmd.extractLsb' 8 56 ≠ 0) ∧
    (turn (State.reset.acceptNow 0x13) = .engine ∧
      (State.reset.acceptNow 0x13).cmd.extractLsb' 0 8 ∉
        ([0x00, 0x01, 0x10, 0x11, 0x12, 0x20, 0x30, 0x40] : List (BitVec 8))) := by decide
theorem witness_StepRunsTheDecodedCommand :
    turn (running .winGen ConfigRegs.zero) = .engine ∧
    decode (running .winGen ConfigRegs.zero).cmd = .ok .winGen := by decide
theorem witness_CmdWriteIsAcceptedWhenIdle :
    idleWrite.rstN = true ∧ idleWrite.status.busy = false ∧ idleWrite.held = none ∧
    idleWrite.host = regWrite .CMD 1 :: [] := by decide
theorem witness_CmdWriteIsRejectedWhileBusy :
    turn busyWrite = .host ∧ busyWrite.rstN = true ∧ busyWrite.status.busy = true ∧
    busyWrite.host = regWrite .CMD 1 :: [] := by decide
theorem witness_RunningCommandCompletesInFinitelyManySteps :
    busyWrite.rstN = true ∧ busyWrite.status.busy = true := by decide
theorem witness_PlanInstallsThePlan :
    (running .plan { ConfigRegs.zero with planN := 65536 }).params.Legal ∧
    checkPlanLength (running .plan { ConfigRegs.zero with planN := 65536 }).params
      (running .plan { ConfigRegs.zero with planN := 65536 }).snap.planN.toNat = none := by
  decide +kernel
theorem witness_PlanGeometryFollowsTheLength :
    (1 < 2 ∧ ∃ p, 2 = 2 ^ p) ∧ (1 < 3 ∧ ¬ ∃ p, 3 = 2 ^ p) := by
  refine ⟨⟨by decide, 1, rfl⟩, by decide, ?_⟩
  rintro ⟨p, hp⟩
  match p with
  | 0 => simp at hp
  | 1 => simp at hp
  | p + 2 => rw [Nat.pow_add] at hp; omega
theorem witness_PlanLengthErrorsInOrder :
    ((1 : BitVec 32).toNat ≤ 1) ∧
    (1 < (131072 : BitVec 32).toNat ∧ isPow2 (131072 : BitVec 32).toNat = true ∧
      2 ^ Params.default.planMaxLog2 < (131072 : BitVec 32).toNat) ∧
    (1 < (32769 : BitVec 32).toNat ∧ isPow2 (32769 : BitVec 32).toNat = false ∧
      2 ^ Params.default.planMaxLog2 < nextPow2 (2 * (32769 : BitVec 32).toNat - 1)) ∧
    (1 < (65536 : BitVec 32).toNat ∧ isPow2 (65536 : BitVec 32).toNat = true ∧
      (65536 : BitVec 32).toNat ≤ 2 ^ Params.default.planMaxLog2) ∧
    (1 < (32767 : BitVec 32).toNat ∧ isPow2 (32767 : BitVec 32).toNat = false ∧
      nextPow2 (2 * (32767 : BitVec 32).toNat - 1) ≤ 2 ^ Params.default.planMaxLog2) := by
  decide +kernel
theorem witness_FftFwdWritesTheForwardTransform :
    (fftState .fftFwd 2 0 4 (ints [1, 0, 2, 0])).plan = some (buildPlan 2) ∧
    commandError .fftFwd (fftState .fftFwd 2 0 4 (ints [1, 0, 2, 0])) = none ∧
    cRead (fftState .fftFwd 2 0 4 (ints [1, 0, 2, 0])).mem
      (fftState .fftFwd 2 0 4 (ints [1, 0, 2, 0])).snap.fftSrc.toNat (buildPlan 2).pn
      = some [⟨fone, fzero⟩, ⟨ftwo, fzero⟩] := ⟨rfl, by decide +kernel, by decide +kernel⟩
/-- A Bluestein plan, its destination ending at the end of DMEM. -/
theorem witness_FftRealWritesTheRealTransform :
    (fftState .fftReal 3 0 1048560 (ints [1, 2, 3])).plan = some (buildPlan 3) ∧
    commandError .fftReal (fftState .fftReal 3 0 1048560 (ints [1, 2, 3])) = none ∧
    memRead (fftState .fftReal 3 0 1048560 (ints [1, 2, 3])).mem
      (fftState .fftReal 3 0 1048560 (ints [1, 2, 3])).snap.fftSrc.toNat (buildPlan 3).pn
      = some (ints [1, 2, 3]) := ⟨rfl, by decide +kernel, by decide +kernel⟩
theorem witness_FftInvWritesTheInverseTransform :
    (fftState .fftInv 2 0 4 (ints [1, 0, 2, 0])).plan = some (buildPlan 2) ∧
    commandError .fftInv (fftState .fftInv 2 0 4 (ints [1, 0, 2, 0])) = none ∧
    cRead (fftState .fftInv 2 0 4 (ints [1, 0, 2, 0])).mem
      (fftState .fftInv 2 0 4 (ints [1, 0, 2, 0])).snap.fftSrc.toNat (buildPlan 2).pn
      = some [⟨fone, fzero⟩, ⟨ftwo, fzero⟩] := ⟨rfl, by decide +kernel, by decide +kernel⟩
theorem witness_WinGenWritesTheWindow :
    commandError .winGen (winState 1048575 1 0x01) = none ∧
    (winState 1048575 1 0x01).snap.winLen.toNat = 1 ∧
    commandError .winGen (winState 0 2 0x00) = none ∧ winKind (winState 0 2 0x00).snap = 0 ∧
    commandError .winGen (winState 0 2 0x13) = none ∧
    2 ≤ (winState 0 2 0x13).snap.winLen.toNat := by decide +kernel
theorem witness_MelBuildWritesTheMatrix :
    commandError .melBuild (melState 1048571 5 1 0x121) = none := by decide +kernel
/-- A real, a complex, and a transposed configuration. -/
theorem witness_SpectrogramWritesItsOutput :
    (sgState (sgBase 0x30)).params.Legal ∧ (sgState (sgBase 0x30)).plan = some (buildPlan 4) ∧
    commandError .spectrogram (sgState (sgBase 0x30)) = none ∧
    commandError .spectrogram (sgState (sgBase 0x10)) = none ∧
    commandError .spectrogram (sgState (sgBase 0x10630)) = none ∧
    (sgOps (sgBase 0x30)).powerEn = true ∧ (sgOps (sgBase 0x10)).powerEn = false ∧
    (sgOps (sgBase 0x10630)).transpose = true ∧
    memRead (sgState (sgBase 0x30)).mem 0 6 = some (ints [1, 2, 3, 4, 5, 6]) ∧
    memRead (sgState (sgBase 0x30)).mem 8 4 = some (ints [1, 1, 1, 1]) ∧
    sgReadMel (sgState (sgBase 0x30)).mem (sgOps (sgBase 0x30)) = some [] :=
  ⟨by decide, rfl, by decide +kernel, by decide +kernel, by decide +kernel, by decide, by decide,
    by decide, by decide +kernel, by decide +kernel, rfl⟩
theorem witness_EveryCommandCompletesOnWrittenOperands :
    commandError .fftReal (fftState .fftReal 2 0 2 (ints [1, 2])) = none ∧
    operandsWritten .fftReal (fftState .fftReal 2 0 2 (ints [1, 2])) := by
  refine ⟨by decide +kernel, ?_⟩
  show ∀ iv ∈ readSpans .fftReal (fftState .fftReal 2 0 2 (ints [1, 2])), ∀ k < iv.len,
    ((fftState .fftReal 2 0 2 (ints [1, 2])).mem.readWord (iv.start + k)).isSome = true
  decide +kernel
theorem witness_FailedCommandChangesNothingElse :
    commandError .plan (running .plan ConfigRegs.zero) = some .invalidLength := by decide
theorem witness_CommandsKeepTheOtherBytes :
    exec .nop State.reset = .next State.reset.complete ∧
    ∃ t, exec .winGen (winState 5 3 0x10) = .next t := ⟨rfl, _, rfl⟩
theorem witness_CommandsKeepTheOtherRegisters :
    ∃ t, exec .plan (running .plan ConfigRegs.zero) = .next t := ⟨_, rfl⟩
/-- The last source that fits DMEM, the first that does not, and one shared word. -/
theorem witness_TransformErrorsInOrder :
    (running .fftInv ConfigRegs.zero).plan = none ∧
    (fftState .fftFwd 4 0 8 []).plan ≠ none ∧
    planLen (fftState .fftFwd 4 0 8 []) = 4 ∧
    (fftState .fftFwd 4 0 8 []).planObuf.toNat = 8 ∧
    dmemWords (fftState .fftFwd 4 0 8 []).params = 1048576 ∧
    (1048568 + 2 * 4 ≤ 1048576 ∧ 1048576 < 1048569 + 2 * 4) ∧
    (∃ w, ((0 ≤ w ∧ w < 0 + 8) ∧ (7 ≤ w ∧ w < 7 + 8))) ∧
    (¬ ∃ w, ((0 ≤ w ∧ w < 0 + 8) ∧ (8 ≤ w ∧ w < 8 + 8))) := by
  refine ⟨rfl, by simp [fftState, State.installPlan], by decide +kernel, by decide +kernel,
    by decide, by decide, ⟨7, by decide⟩, ?_⟩
  rintro ⟨w, h⟩
  omega
theorem witness_WordsAreLittleEndian : (7 : Nat) < 8 := by decide
theorem witness_HostDmemWriteIsReadBack :
    1048575 < dmemWords State.reset.params ∧ (1048574 : Nat) ≠ 1048575 := by decide +kernel
/-- A width, an alignment, the first address past the register block and the first past DMEM, and a hole. -/
theorem witness_BadHostAccessIsABusError :
    (4 : Nat) ≠ 8 ∧ 0x104 % 8 ≠ 0 ∧ (0xFFF < 0x1000 ∧ 0x1000 < 0x00100000) ∧
    (0xFFF < 0x900000 ∧ 0x00100000 + 8 * dmemWords State.reset.params ≤ 0x900000) ∧
    (0x30 % 8 = 0 ∧ 0x30 ≤ 0xFFF ∧ ∀ r, regOffset r ≠ 0x30) := by
  refine ⟨by decide, by decide, by decide, by decide +kernel, by decide, by decide, ?_⟩
  intro r
  cases r <;> decide
theorem witness_DmemAccessIsHeldWhileBusy :
    (turn { busyWrite with host := [.bus dmemRead] } = .host ∧ busyWrite.rstN = true ∧
      busyWrite.status.busy = true ∧ inDmemWindow busyWrite.params dmemRead.addr = true) ∧
    (({ busyWrite with held := some dmemRead }).status.busy = true ∧
      ∀ level rest, busyWrite.host ≠ .rstN level :: rest) ∧
    (({ State.reset with held := some dmemRead }).rstN = true ∧
      State.reset.status.busy = false) := by
  refine ⟨by decide +kernel, ⟨by decide, ?_⟩, by decide⟩
  intro level rest h
  simp [busyWrite, regWrite] at h
theorem witness_ConfigurationRegistersReadBack :
    Reg.SG_MAX_FRAMES ∈ u32Regs ∧ Reg.SG_DB_RANGE ∈ f64Regs := by decide
theorem witness_RegisterWriteChangesOnlyThatRegister :
    Reg.CTRL ≠ .CMD ∧ Reg.STATUS ≠ .CTRL ∧ Reg.HWCFG ∈ roRegs := by decide
theorem witness_IrqIsEnableAndDone :
    State.reset.status.busy = false ∧ busyWrite.status.busy = true := by decide
theorem witness_ResetGivesTheResetValues :
    Params.Legal { dmemAw := 10, planMaxLog2 := 24, powerExpRule := .powerOverTwo } ∧
    Reg.SG_DB_RANGE ≠ .ID ∧ Reg.SG_DB_RANGE ≠ .HWCFG := by decide
theorem witness_ResetAbandonsTheCommand :
    (({ busyWrite with held := some dmemRead, host := [.rstN false] }).rstN = true ∧
      turn { busyWrite with held := some dmemRead, host := [.rstN false] } = .host ∧
      ({ busyWrite with held := some dmemRead, host := [.rstN false] }).status.busy = true) ∧
    (turn { State.reset with host := [.rstN false] } = .host ∧
      ({ State.reset with host := [.rstN false] }).held = none) ∧
    ({ State.reset with rstN := false, host := [.bus dmemRead] }).rstN = false := by decide
theorem witness_ReleasedResetGivesTheResetState :
    ({ State.reset with rstN := false, host := [.rstN true] }).rstN = false ∧
    ({ State.reset with rstN := false, host := [.rstN true] }).host = .rstN true :: [] := by decide
theorem witness_ResetSatisfiesTheInvariant : Params.default.Legal := by decide
theorem witness_EveryStepKeepsTheInvariant :
    State.reset.Inv ∧ step State.reset = .next State.reset := by
  refine ⟨?_, rfl⟩
  constructor
  · decide
  · exact List.Pairwise.nil
  · intro c h; cases h
  · intro p h; cases h
  · exact ⟨rfl, rfl, rfl, rfl, rfl⟩
  · intro _; exact ⟨rfl, rfl, rfl⟩
  · intro h; cases h
  · exact .inl rfl
  · intro h; cases h
  · intro t h; cases h
  · intro h; cases h
theorem witness_PlanChangesOnlyByPlanOrReset : step State.reset = .next State.reset := rfl
theorem witness_FlagsChangeOnlyAsTheRulesSay :
    State.reset.Inv ∧ step State.reset = .next State.reset :=
  witness_EveryStepKeepsTheInvariant
theorem witness_ResultRegistersChangeOnlyAtCompletion :
    step State.reset = .next State.reset ∧ turn State.reset = .host ∧
    ¬ ReleasesReset State.reset := by
  refine ⟨rfl, by decide, ?_⟩
  rintro ⟨h, _⟩
  cases h
/-- A second state that differs in a word the transform does not read. -/
theorem witness_OutcomeIsAFunctionOfWhatTheCommandReads :
    let s := fftState .fftReal 2 0 2 (ints [1, 2])
    let s' := { s with mem := s.mem.writeWord 9 fone }
    s'.params = s.params ∧ s'.snap = s.snap ∧ s'.plan = s.plan ∧ s'.planObuf = s.planObuf ∧
    s'.draws = s.draws ∧
    (∀ iv ∈ readSpans .fftReal s, ∀ k < iv.len,
      s'.mem.readWord (iv.start + k) = s.mem.readWord (iv.start + k)) ∧
    commandError .fftReal s = none ∧ (∃ t, exec .fftReal s = .next t) ∧
    ∃ t, exec .fftReal s' = .next t := by
  refine ⟨rfl, rfl, rfl, rfl, rfl, ?_, by decide +kernel, ⟨_, rfl⟩, _, rfl⟩
  decide +kernel
theorem witness_ArithmeticRoundsToNearestEven :
    fisFinite fone = true ∧ fisFinite 0x8000000000000001#64 = true ∧
    fisZero 0x8000000000000001#64 = false ∧
    funits fone + funits (fneg fone) = 0 := by decide +kernel
theorem witness_SquareRootRoundsToNearest :
    fisFinite 0x0000000000000001#64 = true ∧ fsign 0x0000000000000001#64 = false ∧
    fisZero 0x0000000000000001#64 = false := by decide
theorem witness_IntegersConvertExactlyOrNearest : |(-2 ^ 53 : Int)| ≤ 2 ^ 53 := by decide
theorem witness_MaxAndMinFollowTheOrder :
    fisNaN fnan = true ∧ fisNaN fzero = false ∧ fisNaN fninf = false ∧
    ∀ x ∈ fzero :: [fninf], fisNaN x = false := by
  refine ⟨by decide, by decide, by decide, ?_⟩
  simp only [List.mem_cons, List.not_mem_nil, or_false, forall_eq_or_imp, forall_eq]
  decide
theorem witness_TranscendentalSpecialValues :
    fisZero 0x8000000000000000#64 = true ∧ flt fninf fzero = true ∧ fisNaN fnan = true ∧
    fisZero fone = false ∧ fnan ≠ fone ∧ flt fzero finf = true ∧
    fisFinite 0xFFEFFFFFFFFFFFFF#64 = true := by decide
theorem witness_NaNResultsAreQuietNaNs :
    fisNaN fone = false ∧ fisNaN 0x7FF0000000000001#64 = true ∧
    (fisNaN 0xFFFFFFFFFFFFFFFF#64 = true ∧ (0xFFFFFFFFFFFFFFFF#64).getLsbD 51 = true) := by decide
theorem witness_PowerOfTwoDatapathIsTheDft :
    1 ≤ 1 ∧ 2 = 2 ^ 1 ∧ ([1, 2] : List ℂ).length = 2 ∧ ([1, 2] : List ℝ).length = 2 :=
  ⟨by decide, by decide, rfl, rfl⟩
theorem witness_BluesteinDatapathIsTheDft :
    3 ≤ 3 ∧ isPow2 3 = false ∧ 8 = nextPow2 (2 * 3 - 1) ∧ ([1, 2, 3] : List ℂ).length = 3 ∧
    ([1, 2, 3] : List ℝ).length = 3 :=
  ⟨by decide, by decide +kernel, by decide +kernel, rfl, rfl⟩
theorem witness_RealTransformIsHermitian :
    (buildPlan 4).tables = .p2 (brevTable 4) (twTable 4) ∧ isPow2 (buildPlan 4).pn = true ∧
    1 ≤ 1 ∧ 1 < (buildPlan 4).pn / 2 := ⟨rfl, by decide +kernel, by decide, by decide⟩
theorem witness_BitReversalTableIsR160 : 0 < 2 ^ 0 ∧ 7 < 2 ^ 3 := by decide
theorem witness_HannValuesAreNotNegative :
    (2 ≤ 2 ∧ 2 < 2 ^ 32 ∧ 1 < 2) ∧ (2 ≤ 2 ^ 32 - 1 ∧ 2 ^ 32 - 1 < 2 ^ 32) := by decide
/-- At the left point, at the centre and at the right point of the triangle 0, 1, 2. -/
theorem witness_MelTriangleHasItsSupportAndPeak :
    flt fzero fone = true ∧ flt fone ftwo = true ∧ fisFinite (fsub fone fzero) = true ∧
    fisFinite (fsub ftwo fone) = true ∧
    (fisFinite (fsub fzero fzero) = true ∧ fisFinite (fsub ftwo fzero) = true) ∧
    fisFinite (fsub ftwo ftwo) = true ∧
    fle fzero fzero = true ∧ fle ftwo ftwo = true := by decide +kernel
theorem witness_FrameCountsFollowTheFormula :
    0 < (sgOps (sgBase 0x30)).hop ∧
    (let o := { sgOps (sgBase 0x30) with len := 16000, fl := 400, hop := 160 }
     o.center = false ∧ o.minFramesEn = false ∧ o.maxFramesEn = false) := by decide
theorem witness_ReflectionMirrorsWithoutTheEdge : 2 ≤ 2 ∧ 1 < 2 := by decide
theorem witness_DbRangeBoundsTheOutput :
    fisFinite fone = true ∧ flt fzero fone = true ∧
    ([[fone], [ftwo, fzero]] : List (List F64)).flatten = fone :: [ftwo, fzero] ∧
    ∀ x ∈ fone :: [ftwo, fzero], fisNaN x = false := by
  refine ⟨by decide, by decide, rfl, ?_⟩
  simp only [List.mem_cons, List.not_mem_nil, or_false, forall_eq_or_imp, forall_eq]
  decide
theorem witness_AllZeroWaveformIsConstantInDb :
    let o := sgOps (sgBase 0x630)
    isPow2 o.nfft = true ∧ 1 < o.nfft ∧ o.nfft < 2 ^ 32 ∧ 0 < o.fl ∧ o.fl ≤ o.nfft ∧
    o.logMel = 3 ∧ (o.pw = fone ∨ o.pw = ftwo) ∧ fisFinite o.pre = true ∧
    flt fzero o.minv = true ∧ fle o.minv o.flo = true ∧
    (∀ v ∈ [fzero, 0x8000000000000000#64], fisZero v = true) ∧
    (∀ v ∈ [fone, fone], fisFinite v = true) := by
  simp only [List.mem_cons, List.not_mem_nil, or_false, forall_eq_or_imp, forall_eq]
  decide +kernel

end Sys2Proof.Tests
end

/-! SUPPORT. Rounding (R10): `roundMag` rounds a quotient to an integer, in units of the spacing
around it, so `fround` is to nearest, ties to even. -/

namespace Sys2Proof.Machine

/-! ## A quotient rounded to an integer -/

/-- `n / q` rounded to the nearest integer, ties to even: the significand `roundMag` computes. -/
def divNearest (n q : Nat) : Nat :=
  if 2 * (n % q) > q ∨ (2 * (n % q) = q ∧ n / q % 2 = 1) then n / q + 1 else n / q

/-- The rounding error is at most half a spacing, and half a spacing only beside an even result. -/
theorem divNearest_error {n q : Nat} (hq : 0 < q) :
    2 * |(divNearest n q * q - n : Int)| ≤ q ∧
    (2 * |(divNearest n q * q - n : Int)| = q → divNearest n q % 2 = 0) := by
  have hr : n % q < q := Nat.mod_lt n hq
  have hn : (n : Int) = q * (n / q : Nat) + (n % q : Nat) := by
    exact_mod_cast (Nat.div_add_mod n q).symm
  unfold divNearest
  split
  · next h =>
    have e : (((n / q + 1 : Nat) : Int) * q - n) = q - (n % q : Nat) := by
      rw [hn]; push_cast; ring
    rw [e, abs_of_nonneg (by omega)]
    omega
  · next h =>
    have e : (((n / q : Nat) : Int) * q - n) = -(n % q : Nat) := by rw [hn]; ring
    rw [e, abs_neg, abs_of_nonneg (by omega)]
    omega

/-- No multiple of `q` is nearer to `n`, and another one as near stands beside an even result. -/
theorem divNearest_nearest {n q : Nat} (hq : 0 < q) (j : Int) :
    |(divNearest n q * q - n : Int)| ≤ |j * q - n| ∧
    (|j * q - n| = |(divNearest n q * q - n : Int)| → j ≠ divNearest n q →
      divNearest n q % 2 = 0) := by
  obtain ⟨hhalf, htie⟩ := divNearest_error (n := n) hq
  rcases eq_or_ne j (divNearest n q) with rfl | hj
  · exact ⟨le_rfl, fun _ h => absurd rfl h⟩
  have hsep : (q : Int) ≤ |j * q - divNearest n q * q| := by
    rw [← sub_mul, abs_mul, Nat.abs_cast]
    exact le_mul_of_one_le_left (by positivity) (Int.one_le_abs (sub_ne_zero.2 hj))
  have htri := abs_sub_le (j * q : Int) n (divNearest n q * q)
  rw [abs_sub_comm (n : Int)] at htri
  exact ⟨by omega, fun h _ => htie (by omega)⟩

theorem le_divNearest {a n q : Nat} (hq : 0 < q) (h : a * q ≤ n) : a ≤ divNearest n q := by
  have : a ≤ n / q := (Nat.le_div_iff_mul_le hq).2 h
  unfold divNearest
  split <;> omega

theorem divNearest_le {a n q : Nat} (h : n < a * q) : divNearest n q ≤ a := by
  have : n / q < a := Nat.div_lt_of_lt_mul (by rwa [Nat.mul_comm])
  unfold divNearest
  split <;> omega

/-- Above an odd number the upper half of a spacing, midpoint included, rounds up. -/
theorem lt_divNearest_iff {a n q : Nat} (hq : 0 < q) (ha : a % 2 = 1) :
    a < divNearest n q ↔ (2 * a + 1) * q ≤ 2 * n := by
  obtain ⟨hhalf, htie⟩ := divNearest_error (n := n) hq
  generalize divNearest n q = m at *
  have hlo := neg_abs_le (m * q - n : Int)
  have hhi := le_abs_self (m * q - n : Int)
  have hcast : (m * q : Int) = ((m * q : Nat) : Int) := (Nat.cast_mul m q).symm
  rw [Nat.add_mul, Nat.mul_assoc]
  constructor
  · intro h
    have hm : (a + 1) * q ≤ m * q := Nat.mul_le_mul_right q h
    rw [Nat.add_mul] at hm
    omega
  · intro h
    by_contra hcon
    rcases Nat.lt_or_eq_of_le (Nat.le_of_not_lt hcon) with hlt | rfl
    · have hm : (m + 1) * q ≤ a * q := Nat.mul_le_mul_right q hlt
      rw [Nat.add_mul] at hm
      omega
    · have := htie (by omega)
      omega

/-! ## The spacing -/

/-- The exponent of the spacing of the binary64 values around `n / d` units. -/
def roundShift (n d : Nat) : Nat := Nat.log2 (n / d) - 52

/-- `n / d` in units of its spacing, rounded. -/
def roundSig (n d : Nat) : Nat := divNearest n (d * 2 ^ roundShift n d)

theorem roundMag_eq (n d : Nat) :
    roundMag n d = min (roundSig n d + roundShift n d * 2 ^ 52) 0x7FF0000000000000 := rfl

theorem two_pow_le_overflowUnits {e : Nat} (h : e ≤ 2044) : 2 ^ e ≤ overflowUnits := by
  have hpow : 2 ^ e ≤ 2 ^ 2044 := pow_le_pow_right₀ one_le_two h
  rw [overflowUnits]
  generalize 2 ^ 2044 = u at *
  omega

theorem overflowUnits_pos : 0 < overflowUnits := by
  unfold overflowUnits
  positivity

section
variable {n d : Nat} (hd : 0 < d)
include hd

theorem lt_of_roundShift : n < 2 ^ (53 + roundShift n d) * d := by
  have h : n / d < 2 ^ (Nat.log2 (n / d) + 1) := Nat.lt_log2_self
  have hle : 2 ^ (Nat.log2 (n / d) + 1) ≤ 2 ^ (53 + roundShift n d) :=
    Nat.pow_le_pow_right (by decide) (by unfold roundShift; omega)
  exact (Nat.div_lt_iff_lt_mul hd).1 (lt_of_lt_of_le h hle)

theorem le_of_roundShift_pos (h : 0 < roundShift n d) : 2 ^ (52 + roundShift n d) * d ≤ n := by
  have hlog : 52 + roundShift n d = Nat.log2 (n / d) := by unfold roundShift at *; omega
  have hne : n / d ≠ 0 := by
    intro h0
    simp [roundShift, h0] at h
  rw [hlog]
  exact (Nat.le_div_iff_mul_le hd).1 (Nat.log2_self_le hne)

/-- The shift is above `j` exactly from `2 ^ (53 + j)` units on. -/
theorem lt_roundShift_iff {j : Nat} : j < roundShift n d ↔ 2 ^ (53 + j) * d ≤ n := by
  constructor
  · intro h
    refine le_trans (Nat.mul_le_mul_right d (Nat.pow_le_pow_right (by decide) ?_))
      (le_of_roundShift_pos hd (by omega))
    omega
  · intro h
    by_contra hcon
    have := lt_of_lt_of_le (lt_of_roundShift hd (n := n)) (Nat.mul_le_mul_right d
      (Nat.pow_le_pow_right (n := 2) (by decide) (show 53 + roundShift n d ≤ 53 + j by omega)))
    omega

theorem roundSig_le : roundSig n d ≤ 2 ^ 53 :=
  divNearest_le (by
    rw [Nat.mul_left_comm, ← Nat.pow_add, Nat.mul_comm]
    exact lt_of_roundShift hd)

theorem le_roundSig (h : 0 < roundShift n d) : 2 ^ 52 ≤ roundSig n d :=
  le_divNearest (by positivity) (by
    rw [Nat.mul_left_comm, ← Nat.pow_add, Nat.mul_comm]
    exact le_of_roundShift_pos hd h)

/-- The rounded value is nearest to `n / d` among the values a spacing apart and all values below
the binade, which hold every binary64 value. -/
theorem roundSig_nearest {c : Int}
    (hc : (2 : Int) ^ roundShift n d ∣ c ∨ c < 2 ^ (52 + roundShift n d)) :
    |(roundSig n d * 2 ^ roundShift n d : Int) * d - n| ≤ |c * d - n| ∧
    (|c * d - n| = |(roundSig n d * 2 ^ roundShift n d : Int) * d - n| →
      c ≠ roundSig n d * 2 ^ roundShift n d → roundSig n d % 2 = 0) := by
  have hq : 0 < d * 2 ^ roundShift n d := by positivity
  have hdvd : ∀ j : Int,
      |(roundSig n d * 2 ^ roundShift n d : Int) * d - n|
        ≤ |(j * 2 ^ roundShift n d) * d - n| ∧
      (|(j * 2 ^ roundShift n d) * d - n|
          = |(roundSig n d * 2 ^ roundShift n d : Int) * d - n| →
        j ≠ roundSig n d → roundSig n d % 2 = 0) := by
    intro j
    have := divNearest_nearest (n := n) hq j
    push_cast at this
    simpa only [roundSig, mul_assoc, mul_comm, mul_left_comm] using this
  rcases hc with ⟨j, rfl⟩ | hlt
  · rw [mul_comm _ j]
    exact ⟨(hdvd j).1, fun h hne => (hdvd j).2 h (fun e => hne (by rw [e]))⟩
  · rcases Nat.eq_zero_or_pos (roundShift n d) with h0 | hpos
    · have := hdvd c
      simpa [h0] using this
    · have hle : ((2 : Int) ^ (52 + roundShift n d)) * d ≤ n := by
        exact_mod_cast le_of_roundShift_pos hd hpos
      have hlt' : c * d < 2 ^ (52 + roundShift n d) * d :=
        mul_lt_mul_of_pos_right hlt (by exact_mod_cast hd)
      have hP := (hdvd (2 ^ 52)).1
      rw [← pow_add, abs_sub_comm (2 ^ _ * _ : Int), abs_of_nonneg (sub_nonneg.2 hle)] at hP
      rw [abs_sub_comm (c * _), abs_of_nonneg (sub_nonneg.2 (hlt'.le.trans hle))]
      exact ⟨by omega, fun h _ => by omega⟩

/-- From the overflow midpoint on, and only there, the significand and the shift pass those of the
largest finite value. -/
theorem overflow_le_iff :
    overflowUnits * d ≤ n ↔
      2045 < roundShift n d ∨ (roundShift n d = 2045 ∧ 2 ^ 53 - 1 < roundSig n d) := by
  have hsplit (i : Nat) : 2 ^ (i + 2044) * d = 2 ^ i * (2 ^ 2044 * d) := by
    rw [pow_add, mul_assoc]
  have hover : overflowUnits * d = (2 ^ 54 - 1) * (2 ^ 2044 * d) := by
    rw [overflowUnits, Nat.mul_assoc]
  rcases Nat.lt_trichotomy (roundShift n d) 2045 with h | h | h
  · have hlt := mt (lt_roundShift_iff hd (n := n) (j := 2044)).2 (by omega)
    rw [hsplit 53] at hlt
    omega
  · have hsig := lt_divNearest_iff (a := 2 ^ 53 - 1) (n := n)
      (show 0 < d * 2 ^ roundShift n d by positivity) (by decide)
    have hq : d * 2 ^ roundShift n d = 2 * (2 ^ 2044 * d) := by
      rw [h, Nat.mul_comm, show 2045 = 1 + 2044 from rfl, hsplit 1, pow_one]
    rw [show divNearest n (d * 2 ^ roundShift n d) = roundSig n d from rfl, hq] at hsig
    omega
  · have hle := (lt_roundShift_iff hd (n := n)).1 h
    rw [show 53 + 2045 = 54 + 2044 from rfl, hsplit 54] at hle
    omega

theorem roundMag_of_overflow (h : overflowUnits * d ≤ n) : roundMag n d = 0x7FF0000000000000 := by
  rw [roundMag_eq]
  rcases (overflow_le_iff hd).1 h with hk | ⟨hk, hm⟩
  · have := le_roundSig hd (n := n) (by omega)
    omega
  · omega

theorem roundMag_of_lt (h : n < overflowUnits * d) :
    roundMag n d = roundSig n d + roundShift n d * 2 ^ 52 ∧
    roundSig n d + roundShift n d * 2 ^ 52 < 0x7FF0000000000000 := by
  have hno := mt (overflow_le_iff hd).2 (Nat.not_le.2 h)
  have := roundSig_le hd (n := n)
  rw [roundMag_eq]
  omega

end

/-! ## The magnitudes of finite values -/

/-- A significand and an exponent packed as `roundMag` packs them; the significand may reach the
next binade. -/
theorem fmag_fpack_add {m k : Nat} (neg : Bool) (hm : m ≤ 2 ^ 53) (hk : 0 < k → 2 ^ 52 ≤ m)
    (hb : m + k * 2 ^ 52 < 2 ^ 63) : fmag (fpack neg (m + k * 2 ^ 52)) = m * 2 ^ k := by
  rw [fmag, fexpo_fpack neg hb, ffrac_fpack neg hb]
  rcases Nat.lt_or_ge m (2 ^ 52) with hlt | hge
  · obtain rfl : k = 0 := by omega
    rw [if_pos (by omega)]
    omega
  rw [if_neg (by omega)]
  rcases Nat.lt_or_eq_of_le hm with hlt | rfl
  · have he : (m + k * 2 ^ 52) / 2 ^ 52 - 1 = k := by omega
    have hf : 2 ^ 52 + (m + k * 2 ^ 52) % 2 ^ 52 = m := by omega
    rw [he, hf]
  · have he : (2 ^ 53 + k * 2 ^ 52) / 2 ^ 52 - 1 = k + 1 := by omega
    have hf : 2 ^ 52 + (2 ^ 53 + k * 2 ^ 52) % 2 ^ 52 = 2 ^ 52 := by omega
    have hpow : 2 ^ (k + 1) = 2 * 2 ^ k := pow_succ' 2 k
    rw [he, hf, hpow]
    omega

theorem ffrac_lt (c : F64) : ffrac c < 2 ^ 52 := by
  rw [ffrac_eq]
  exact Nat.mod_lt _ (by decide)

/-- A finite magnitude is a multiple of the spacing `2 ^ k`, or below the binade of that spacing. -/
theorem dvd_fmag_or_lt (c : F64) (k : Nat) : 2 ^ k ∣ fmag c ∨ fmag c < 2 ^ (52 + k) := by
  have hf := ffrac_lt c
  unfold fmag
  split
  · exact .inr (lt_of_lt_of_le hf (Nat.pow_le_pow_right (by decide) (by omega)))
  · rcases Nat.lt_or_ge (fexpo c - 1) k with hlt | hge
    · refine .inr ?_
      calc (2 ^ 52 + ffrac c) * 2 ^ (fexpo c - 1)
          < 2 ^ 53 * 2 ^ (fexpo c - 1) := Nat.mul_lt_mul_of_pos_right (by omega) (by positivity)
        _ = 2 ^ (53 + (fexpo c - 1)) := (Nat.pow_add ..).symm
        _ ≤ 2 ^ (52 + k) := Nat.pow_le_pow_right (by decide) (by omega)
    · exact .inl (Dvd.dvd.mul_left (pow_dvd_pow 2 hge) _)

theorem funits_of_pos {c : F64} (h : fsign c = false) : funits c = fmag c := by
  rw [funits, h, if_neg Bool.false_ne_true]

theorem funits_of_neg {c : F64} (h : fsign c = true) : funits c = -fmag c := by
  rw [funits, h, if_pos rfl]

theorem funits_eq_or_neg (c : F64) : funits c = fmag c ∨ funits c = -fmag c := by
  cases h : fsign c
  · exact .inl (funits_of_pos h)
  · exact .inr (funits_of_neg h)

/-- The same of a signed value, as `roundSig_nearest` asks for it. -/
theorem dvd_units_or_lt (c : F64) (k : Nat) {u : Int} (hu : u = funits c ∨ u = -funits c) :
    (2 : Int) ^ k ∣ u ∨ u < 2 ^ (52 + k) := by
  have hu' : u = fmag c ∨ u = -fmag c := by
    rcases funits_eq_or_neg c with h | h <;> omega
  rcases dvd_fmag_or_lt c k with h | h
  · have h' : (2 : Int) ^ k ∣ fmag c := by exact_mod_cast h
    rcases hu' with rfl | rfl
    · exact .inl h'
    · exact .inl ((dvd_neg).2 h')
  · have h' : (fmag c : Int) < 2 ^ (52 + k) := by exact_mod_cast h
    exact .inr (by omega)

/-! ## fround -/

theorem abs_of_signed {n : Nat} (neg : Bool) {num : Int}
    (hnum : num = if neg then -(n : Int) else n) : |num| = n := by
  rw [hnum]
  cases neg <;> simp

theorem overflow_le_abs_iff {n d : Nat} (neg : Bool) {num : Int}
    (hnum : num = if neg then -(n : Int) else n) :
    (overflowUnits * d : Int) ≤ |num| ↔ overflowUnits * d ≤ n := by
  rw [abs_of_signed neg hnum, ← Nat.cast_mul, Nat.cast_le]

theorem sign_of_signed {n : Nat} (neg : Bool) {num : Int}
    (hnum : num = if neg then -(n : Int) else n) (hn : 0 < n) : neg = decide (num < 0) := by
  rw [hnum]
  cases neg
  · simp
  · simp
    omega

section
variable {n d : Nat} (neg : Bool) (hd : 0 < d)
include hd

theorem fisInf_fround (h : overflowUnits * d ≤ n) : fisInf (fround neg n d) = true := by
  rw [fisInf, fround, roundMag_of_overflow hd h, fexpo_fpack neg (by decide),
    ffrac_fpack neg (by decide)]
  rfl

theorem fisFinite_fround (h : n < overflowUnits * d) : fisFinite (fround neg n d) = true := by
  obtain ⟨he, hlt⟩ := roundMag_of_lt hd h
  rw [fisFinite, fround, he, fexpo_fpack neg (by omega), bne_iff_ne]
  omega

theorem fmag_fround (h : n < overflowUnits * d) :
    fmag (fround neg n d) = roundSig n d * 2 ^ roundShift n d := by
  obtain ⟨he, hlt⟩ := roundMag_of_lt hd h
  rw [fround, he, fmag_fpack_add neg (roundSig_le hd) (le_roundSig hd) (by omega)]

theorem ffrac_fround_even (h : n < overflowUnits * d) (heven : roundSig n d % 2 = 0) :
    ffrac (fround neg n d) % 2 = 0 := by
  obtain ⟨he, hlt⟩ := roundMag_of_lt hd h
  rw [fround, he, ffrac_fpack neg (by omega)]
  omega

theorem nearestEven_fround_of_overflow {num : Int} (hnum : num = if neg then -(n : Int) else n)
    (h : overflowUnits * d ≤ n) : NearestEven num d (fround neg n d) := by
  have hpos : 0 < n := lt_of_lt_of_le (Nat.mul_pos overflowUnits_pos hd) h
  rw [NearestEven, if_pos ((overflow_le_abs_iff neg hnum).2 h), fsign_fround]
  exact ⟨fisInf_fround neg hd h, sign_of_signed neg hnum hpos⟩

/-- Below the overflow midpoint no finite value is nearer than the rounded one, and one as near
stands beside an even fraction. -/
theorem fround_nearest {num : Int} (hnum : num = if neg then -(n : Int) else n)
    (h : n < overflowUnits * d) (c : F64) :
    |funits (fround neg n d) * d - num| ≤ |funits c * d - num| ∧
    (|funits c * d - num| = |funits (fround neg n d) * d - num| →
      funits c ≠ funits (fround neg n d) → ffrac (fround neg n d) % 2 = 0) := by
  have hmag : (fmag (fround neg n d) : Int) = roundSig n d * 2 ^ roundShift n d := by
    rw [fmag_fround neg hd h]
    push_cast
    rfl
  have heven := ffrac_fround_even neg hd h
  cases neg with
  | false =>
    obtain ⟨hle, htie⟩ := roundSig_nearest hd (n := n)
      (dvd_units_or_lt c (roundShift n d) (.inl rfl))
    rw [funits_of_pos (fsign_fround ..), hmag, hnum, if_neg Bool.false_ne_true]
    exact ⟨hle, fun e hne => heven (htie e hne)⟩
  | true =>
    obtain ⟨hle, htie⟩ := roundSig_nearest hd (n := n)
      (dvd_units_or_lt c (roundShift n d) (.inr rfl))
    have hflip (x : Int) : |x * d - -(n : Int)| = |-x * d - n| := by
      rw [← abs_neg]; congr 1; ring
    rw [funits_of_neg (fsign_fround ..), hmag, hnum, if_pos rfl, hflip, hflip, neg_neg]
    exact ⟨hle, fun e hne => heven (htie e (fun h => hne (neg_eq_iff_eq_neg.1 h)))⟩

theorem nearestEven_fround_of_lt {num : Int} (hnum : num = if neg then -(n : Int) else n)
    (h : n < overflowUnits * d) : NearestEven num d (fround neg n d) := by
  rw [NearestEven, if_neg (mt (overflow_le_abs_iff neg hnum).1 (Nat.not_le.2 h))]
  exact ⟨fisFinite_fround neg hd h, fun c _ => fround_nearest neg hd hnum h c⟩

/-- R10: `fround`, the one rounding of the model, is to nearest with ties to even. -/
theorem nearestEven_fround {num : Int} (hnum : num = if neg then -(n : Int) else n) :
    NearestEven num d (fround neg n d) :=
  (Nat.lt_or_ge n (overflowUnits * d)).elim (nearestEven_fround_of_lt neg hd hnum)
    (nearestEven_fround_of_overflow neg hd hnum)

end
end Sys2Proof.Machine

/-! SUPPORT. Addition, subtraction, multiplication, division and the conversion of integers (R9, R10),
each one `fround`. -/

namespace Sys2Proof.Machine

/-! ## The arithmetic on finite values -/

theorem fisNaN_of_finite {a : F64} (h : fisFinite a = true) : fisNaN a = false := by
  rw [fisFinite, bne_iff_ne] at h
  simp [fisNaN, h]

theorem fisInf_of_finite {a : F64} (h : fisFinite a = true) : fisInf a = false := by
  rw [fisFinite, bne_iff_ne] at h
  simp [fisInf, h]

theorem fmag_pos {a : F64} (h : fisZero a = false) : 0 < fmag a := by
  unfold fmag
  split
  · next h0 =>
    simp only [fisZero, h0, beq_self_eq_true, Bool.true_and, beq_eq_false_iff_ne] at h
    omega
  · positivity

theorem unitsPerOne_pos : 0 < unitsPerOne := by
  unfold unitsPerOne
  positivity

theorem cast_unitsPerOne : ((unitsPerOne : Nat) : Int) = 2 ^ 1074 := by
  rw [unitsPerOne, Nat.cast_pow, Nat.cast_ofNat]

section
variable {a b : F64} (ha : fisFinite a = true) (hb : fisFinite b = true)
include ha hb

theorem fadd_of_finite :
    fadd a b =
      fround (sumSign a b (funits a + funits b)) (funits a + funits b).natAbs 1 := by
  simp [fadd, fisNaN_of_finite, fisInf_of_finite, ha, hb]

theorem fmul_of_finite :
    fmul a b = fround (fsign a != fsign b) (fmag a * fmag b) unitsPerOne := by
  simp [fmul, fisNaN_of_finite, fisInf_of_finite, ha, hb]

theorem fdiv_of_finite (h0 : fisZero b = false) :
    fdiv a b = fround (fsign a != fsign b) (fmag a * unitsPerOne) (fmag b) := by
  simp [fdiv, fisNaN_of_finite, fisInf_of_finite, ha, hb, h0]

theorem nearestEven_fadd : NearestEven (funits a + funits b) 1 (fadd a b) := by
  rw [fadd_of_finite ha hb]
  refine nearestEven_fround _ Nat.one_pos ?_
  generalize funits a + funits b = z
  unfold sumSign
  split
  · next h0 => simp [h0]
  · by_cases hz : z < 0
    · simp [hz, abs_of_neg hz]
    · simp [hz, abs_of_nonneg (not_lt.1 hz)]

theorem nearestEven_fsub : NearestEven (funits a - funits b) 1 (fsub a b) := by
  have h := nearestEven_fadd ha (b := fneg b) (by rwa [fisFinite_fneg])
  rwa [funits_fneg, ← sub_eq_add_neg] at h

theorem nearestEven_fmul : NearestEven (funits a * funits b) unitsPerOne (fmul a b) := by
  rw [fmul_of_finite ha hb]
  refine nearestEven_fround _ unitsPerOne_pos ?_
  unfold funits
  cases fsign a <;> cases fsign b <;> simp

theorem nearestEven_fdiv (h0 : fisZero b = false) :
    NearestEven ((if fsign b then -funits a else funits a) * unitsPerOne) (fmag b)
      (fdiv a b) := by
  rw [fdiv_of_finite ha hb h0]
  refine nearestEven_fround _ (fmag_pos h0) ?_
  generalize unitsPerOne = u
  unfold funits
  cases fsign a <;> cases fsign b <;> simp

theorem fsign_fadd_of_sum_zero (h : funits a + funits b = 0) :
    fsign (fadd a b) = (fsign a && fsign b) := by
  rw [fadd_of_finite ha hb, fsign_fround, sumSign, if_pos h]

theorem fsign_fmul_of_finite : fsign (fmul a b) = (fsign a != fsign b) := by
  rw [fmul_of_finite ha hb, fsign_fround]

end

/-- Settles O45: each operation on finite values is one `fround` of its exact result. -/
theorem arithmeticRoundsToNearestEven : Obligations.ArithmeticRoundsToNearestEven := by
  intro a b ha hb
  refine ⟨nearestEven_fadd ha hb, nearestEven_fsub ha hb, nearestEven_fmul ha hb, fun h0 => ?_,
    fsign_fadd_of_sum_zero ha hb, fsign_fmul_of_finite ha hb⟩
  rw [← cast_unitsPerOne]
  exact nearestEven_fdiv ha hb h0

/-! ## Integers -/

theorem f64OfInt_natCast (n : Nat) : f64OfInt n = f64OfNat n := by
  have h : ¬ (n : Int) < 0 := by omega
  rw [f64OfInt, f64OfNat, Int.natAbs_natCast, decide_eq_false h]

theorem signed_natAbs_mul (n : Int) (u : Nat) :
    n * u = if decide (n < 0) then -((n.natAbs * u : Nat) : Int) else (n.natAbs * u : Nat) := by
  rw [Nat.cast_mul, Int.natCast_natAbs]
  by_cases h : n < 0
  · rw [if_pos (decide_eq_true h), abs_of_neg h, neg_mul, neg_neg]
  · rw [if_neg (by simpa using h), abs_of_nonneg (not_lt.1 h)]

theorem nearestEven_f64OfInt (n : Int) : NearestEven (n * unitsPerOne) 1 (f64OfInt n) :=
  nearestEven_fround _ Nat.one_pos (signed_natAbs_mul n unitsPerOne)

theorem unitsPerOne_mul_lt_overflowUnits {m : Nat} (hm : m ≤ 2 ^ 53) :
    m * unitsPerOne < overflowUnits := by
  have hpow : unitsPerOne ≤ 2 ^ 2044 := pow_le_pow_right₀ one_le_two (by decide)
  have hpos := unitsPerOne_pos
  rw [overflowUnits]
  generalize 2 ^ 2044 = u at *
  exact lt_of_le_of_lt (Nat.mul_le_mul hm hpow) (by omega)

theorem divNearest_mul (m : Nat) {q : Nat} (hq : 0 < q) : divNearest (m * q) q = m := by
  have h := (divNearest_nearest (n := m * q) hq m).1
  rw [Nat.cast_mul, sub_self, abs_zero, abs_nonpos_iff, sub_eq_zero] at h
  exact_mod_cast mul_right_cancel₀ (by omega) h

/-- A multiple of its own spacing is not changed by rounding. -/
theorem roundSig_mul_of_dvd {n : Nat} (h : 2 ^ roundShift n 1 ∣ n) :
    roundSig n 1 * 2 ^ roundShift n 1 = n := by
  obtain ⟨m, hm⟩ := h
  have hsig : roundSig n 1 = m := by
    have := divNearest_mul m (Nat.two_pow_pos (roundShift n 1))
    rwa [Nat.mul_comm m, ← hm, ← Nat.one_mul (2 ^ _)] at this
  rw [hsig, Nat.mul_comm, ← hm]

/-- A number of at most 53 significant bits is a multiple of its own spacing. -/
theorem roundShift_dvd {m : Nat} (e : Nat) (hm : m ≤ 2 ^ 53) :
    2 ^ roundShift (m * 2 ^ e) 1 ∣ m * 2 ^ e := by
  rcases Nat.lt_or_ge e (roundShift (m * 2 ^ e) 1) with hlt | hge
  · have hle := (lt_roundShift_iff Nat.one_pos).1 hlt
    rw [Nat.mul_one, Nat.pow_add] at hle
    obtain rfl : m = 2 ^ 53 := le_antisymm hm (Nat.le_of_mul_le_mul_right hle (Nat.two_pow_pos e))
    rw [← Nat.pow_add] at hlt ⊢
    have htop := le_of_roundShift_pos Nat.one_pos (Nat.zero_lt_of_lt hlt)
    rw [Nat.mul_one] at htop
    have := (Nat.pow_le_pow_iff_right (by decide)).1 htop
    exact pow_dvd_pow 2 (by omega)
  · exact Dvd.dvd.mul_left (pow_dvd_pow 2 hge) _

theorem f64OfInt_exact {n : Int} (h : |n| ≤ 2 ^ 53) :
    fisFinite (f64OfInt n) = true ∧ funits (f64OfInt n) = n * unitsPerOne := by
  have hm : n.natAbs ≤ 2 ^ 53 := by
    rw [Int.abs_eq_natAbs] at h
    exact_mod_cast h
  have hlt : n.natAbs * unitsPerOne < overflowUnits * 1 := by
    rw [Nat.mul_one]
    exact unitsPerOne_mul_lt_overflowUnits hm
  refine ⟨fisFinite_fround _ Nat.one_pos hlt, ?_⟩
  have hmag : fmag (f64OfInt n) = n.natAbs * unitsPerOne :=
    (fmag_fround _ Nat.one_pos hlt).trans (roundSig_mul_of_dvd (roundShift_dvd 1074 hm))
  rw [funits, hmag, f64OfInt, fsign_fround, ← signed_natAbs_mul]

/-- Settles O47: `f64OfInt` is one `fround`, which leaves a multiple of its own spacing alone. -/
theorem integersConvertExactlyOrNearest : Obligations.IntegersConvertExactlyOrNearest := by
  unfold Obligations.IntegersConvertExactlyOrNearest
  rw [← cast_unitsPerOne]
  exact ⟨fun n => f64OfInt_exact, nearestEven_f64OfInt, fun n => (f64OfInt_natCast n).symm⟩

end Sys2Proof.Machine

/-! SUPPORT. The square root (R10): rounding twice the integer root and a sticky bit is rounding the
exact root. -/

namespace Sys2Proof.Machine

/-! ## The integer square root -/

theorem isqrtBits_spec (n : Nat) (bits acc : Nat) (hlo : acc * acc ≤ n)
    (hhi : n < (acc + 2 ^ bits) * (acc + 2 ^ bits)) :
    isqrtBits n bits acc * isqrtBits n bits acc ≤ n ∧
    n < (isqrtBits n bits acc + 1) * (isqrtBits n bits acc + 1) := by
  induction bits generalizing acc with
  | zero => exact ⟨hlo, hhi⟩
  | succ b ih =>
    rw [isqrtBits]
    split
    · next h => exact ih _ h (by rwa [Nat.add_assoc, ← Nat.two_mul, ← Nat.pow_succ'])
    · next h => exact ih _ hlo (Nat.not_le.1 h)

theorem isqrt_spec (n : Nat) : isqrt n * isqrt n ≤ n ∧ n < (isqrt n + 1) * (isqrt n + 1) := by
  refine isqrtBits_spec n _ 0 (Nat.zero_le n) ?_
  rw [Nat.zero_add, ← Nat.pow_add]
  exact lt_of_lt_of_le Nat.lt_log2_self (Nat.pow_le_pow_right (by decide) (by omega))

/-- Twice the root of `n`, its fraction replaced by a sticky bit: what `fsqrt` rounds. -/
def stickyRoot (n : Nat) : Nat := 2 * isqrt n + if isqrt n * isqrt n = n then 0 else 1

/-- An even number is on the same side of the sticky root as of twice the exact root. -/
theorem sq_le_of_even_le_stickyRoot {n x : Nat} (hx : x % 2 = 0) (h : x ≤ stickyRoot n) :
    x ^ 2 ≤ 4 * n := by
  obtain ⟨y, rfl⟩ := Nat.dvd_of_mod_eq_zero hx
  have hy : y ≤ isqrt n := by
    unfold stickyRoot at h
    split at h <;> omega
  calc (2 * y) ^ 2 = 4 * (y * y) := by ring
    _ ≤ 4 * n := Nat.mul_le_mul_left 4 ((Nat.mul_le_mul hy hy).trans (isqrt_spec n).1)

theorem le_sq_of_stickyRoot_le_even {n x : Nat} (hx : x % 2 = 0) (h : stickyRoot n ≤ x) :
    4 * n ≤ x ^ 2 := by
  obtain ⟨y, rfl⟩ := Nat.dvd_of_mod_eq_zero hx
  have hn : n ≤ y * y := by
    unfold stickyRoot at h
    split at h
    · next heq =>
      have hy : isqrt n ≤ y := by omega
      exact heq.symm.le.trans (Nat.mul_le_mul hy hy)
    · have hy : isqrt n + 1 ≤ y := by omega
      exact (isqrt_spec n).2.le.trans (Nat.mul_le_mul hy hy)
  calc 4 * n ≤ 4 * (y * y) := Nat.mul_le_mul_left 4 hn
    _ = (2 * y) ^ 2 := by ring

theorem two_mul_le_stickyRoot {n y : Nat} (h : y * y ≤ n) : 2 * y ≤ stickyRoot n := by
  have hy : y < isqrt n + 1 := Nat.mul_self_lt_mul_self_iff.1 (lt_of_le_of_lt h (isqrt_spec n).2)
  unfold stickyRoot
  omega

theorem stickyRoot_mul_two_pow_lt {m t u e : Nat} (hm : m < 2 ^ t) (h : t + u ≤ 2 * e) :
    stickyRoot (m * 2 ^ u) < 2 ^ e * 2 := by
  have hsq : m * 2 ^ u < 2 ^ e * 2 ^ e :=
    calc m * 2 ^ u < 2 ^ t * 2 ^ u := Nat.mul_lt_mul_of_pos_right hm (Nat.two_pow_pos u)
      _ = 2 ^ (t + u) := (Nat.pow_add ..).symm
      _ ≤ 2 ^ (e + e) := Nat.pow_le_pow_right Nat.two_pos (by omega)
      _ = 2 ^ e * 2 ^ e := Nat.pow_add ..
  have hy : isqrt (m * 2 ^ u) < 2 ^ e :=
    Nat.mul_self_lt_mul_self_iff.1 (lt_of_le_of_lt (isqrt_spec _).1 hsq)
  unfold stickyRoot
  split <;> omega

/-! ## fsqrt -/

theorem even_fmag {c : F64} (h : 2 ^ 53 ≤ fmag c) : fmag c % 2 = 0 := by
  rcases dvd_fmag_or_lt c 1 with hd | hlt <;> omega

theorem fexpo_lt (c : F64) : fexpo c < 2 ^ 11 := by
  rw [fexpo_eq]
  exact Nat.mod_lt _ (by decide)

theorem fmag_lt (c : F64) : fmag c < 2 ^ (52 + fexpo c) := by
  have hf := ffrac_lt c
  unfold fmag
  split
  · next h => rwa [h]
  · calc (2 ^ 52 + ffrac c) * 2 ^ (fexpo c - 1)
        < 2 ^ 53 * 2 ^ (fexpo c - 1) := Nat.mul_lt_mul_of_pos_right (by omega) (by positivity)
      _ = 2 ^ (53 + (fexpo c - 1)) := (Nat.pow_add ..).symm
      _ = 2 ^ (52 + fexpo c) := by congr 1; omega

/-- 2 ^ 537 units: a binary64 value that the root of no positive one is below. -/
def leastRoot : F64 := fpack false (2 ^ 52 + 485 * 2 ^ 52)

theorem fmag_leastRoot : fmag leastRoot = 2 ^ 537 := by
  rw [leastRoot, fmag_fpack_add false (by decide) (by decide) (by decide), ← pow_add]

theorem two_pow_le_leastRoot : 2 ^ 53 ≤ fmag leastRoot := by
  rw [fmag_leastRoot]
  exact pow_le_pow_right₀ one_le_two (by decide)

theorem stickyRoot_lt_overflow (a : F64) : stickyRoot (fmag a * unitsPerOne) < overflowUnits * 2 :=
  (stickyRoot_mul_two_pow_lt (e := 1587) (fmag_lt a) (by have := fexpo_lt a; omega)).trans_le
    (Nat.mul_le_mul_right 2 (two_pow_le_overflowUnits (by decide)))

theorem leastRoot_le_stickyRoot {a : F64} (hz : fisZero a = false) :
    2 * fmag leastRoot ≤ stickyRoot (fmag a * unitsPerOne) := by
  refine two_mul_le_stickyRoot ?_
  have hsq : fmag leastRoot * fmag leastRoot = unitsPerOne := by
    rw [fmag_leastRoot, unitsPerOne, show 1074 = 537 + 537 from rfl, pow_add]
  rw [hsq]
  exact Nat.le_mul_of_pos_left _ (fmag_pos hz)

section
variable {a : F64} (hfin : fisFinite a = true) (hs : fsign a = false) (hz : fisZero a = false)
include hfin hs hz

theorem fsqrt_of_pos : fsqrt a = fround false (stickyRoot (fmag a * unitsPerOne)) 2 := by
  simp [fsqrt, stickyRoot, fisNaN_of_finite hfin, fisInf_of_finite hfin, hs, hz]

/-- Whatever the rounded root is compared with, the sticky root is on its side of the midpoint. -/
theorem fsqrt_midpoint {c : F64} (hcs : fsign c = false) :
    (fmag c < fmag (fsqrt a) → fmag c + fmag (fsqrt a) ≤ stickyRoot (fmag a * unitsPerOne)) ∧
    (fmag (fsqrt a) < fmag c → stickyRoot (fmag a * unitsPerOne) ≤ fmag c + fmag (fsqrt a)) := by
  have hrs : fsign (fsqrt a) = false := by rw [fsqrt_of_pos hfin hs hz, fsign_fround]
  have h := (fround_nearest false Nat.two_pos (if_neg Bool.false_ne_true).symm
    (stickyRoot_lt_overflow a) c).1
  rw [← fsqrt_of_pos hfin hs hz, funits_of_pos hcs, funits_of_pos hrs] at h
  generalize stickyRoot (fmag a * unitsPerOne) = w at h
  rcases abs_cases (fmag (fsqrt a) * (2 : Nat) - w : Int) with ⟨e, _⟩ | ⟨e, _⟩ <;>
    rcases abs_cases (fmag c * (2 : Nat) - w : Int) with ⟨e', _⟩ | ⟨e', _⟩ <;> omega

theorem leastRoot_le_fsqrt : fmag leastRoot ≤ fmag (fsqrt a) := by
  by_contra hlt
  have hmid := (fsqrt_midpoint hfin hs hz (c := leastRoot) (by decide)).2 (Nat.not_le.1 hlt)
  have := leastRoot_le_stickyRoot hz
  omega

theorem leastRoot_add_fsqrt_le :
    fmag leastRoot + fmag (fsqrt a) ≤ stickyRoot (fmag a * unitsPerOne) := by
  rcases Nat.lt_or_eq_of_le (leastRoot_le_fsqrt hfin hs hz) with hlt | heq
  · exact (fsqrt_midpoint hfin hs hz (c := leastRoot) (by decide)).1 hlt
  · rw [← heq, ← Nat.two_mul]
    exact leastRoot_le_stickyRoot hz

theorem even_fsqrt : fmag (fsqrt a) % 2 = 0 :=
  even_fmag (two_pow_le_leastRoot.trans (leastRoot_le_fsqrt hfin hs hz))

/-- A value below the root: from 2 ^ 53 units on its midpoint is even, and the others are below
`leastRoot`, whose midpoint is. -/
theorem sq_le_of_lt_fsqrt {c : F64} (hcs : fsign c = false) (h : fmag c < fmag (fsqrt a)) :
    (fmag c + fmag (fsqrt a)) ^ 2 ≤ 4 * (fmag a * unitsPerOne) := by
  have hv := even_fsqrt hfin hs hz
  have hP := even_fmag two_pow_le_leastRoot
  rcases Nat.lt_or_ge (fmag c) (fmag leastRoot) with hlt | hge
  · calc (fmag c + fmag (fsqrt a)) ^ 2
        ≤ (fmag leastRoot + fmag (fsqrt a)) ^ 2 := Nat.pow_le_pow_left (by omega) 2
      _ ≤ 4 * (fmag a * unitsPerOne) :=
        sq_le_of_even_le_stickyRoot (by omega) (leastRoot_add_fsqrt_le hfin hs hz)
  · have hc := even_fmag (two_pow_le_leastRoot.trans hge)
    exact sq_le_of_even_le_stickyRoot (by omega) ((fsqrt_midpoint hfin hs hz hcs).1 h)

theorem le_sq_of_fsqrt_lt {c : F64} (hcs : fsign c = false) (h : fmag (fsqrt a) < fmag c) :
    4 * (fmag a * unitsPerOne) ≤ (fmag c + fmag (fsqrt a)) ^ 2 := by
  have hv := even_fsqrt hfin hs hz
  have hc := even_fmag ((two_pow_le_leastRoot.trans (leastRoot_le_fsqrt hfin hs hz)).trans h.le)
  exact le_sq_of_stickyRoot_le_even (by omega) ((fsqrt_midpoint hfin hs hz hcs).2 h)

end

/-- Settles O46: the rounded root lies on the same side of every even midpoint as the exact one,
and every midpoint that matters is even. -/
theorem squareRootRoundsToNearest : Obligations.SquareRootRoundsToNearest := by
  intro a hfin hs hz
  have hroot := fsqrt_of_pos hfin hs hz
  refine ⟨?_, by rw [hroot, fsign_fround], fun c _ hcs =>
    ⟨sq_le_of_lt_fsqrt hfin hs hz hcs, le_sq_of_fsqrt_lt hfin hs hz hcs⟩⟩
  rw [hroot]
  exact fisFinite_fround false Nat.two_pos (stickyRoot_lt_overflow a)

end Sys2Proof.Machine

/-! SUPPORT. The order of the values that are not NaN, and `fmax`, `fmin` and `maxseq` in it (R15). -/

namespace Sys2Proof.Machine

/-! ## The order of the values that are not NaN -/

theorem ftotal_eq (a : F64) :
    ftotal a = if fsign a then -((a.toNat % 2 ^ 63 : Nat) : Int) - 1 else (a.toNat % 2 ^ 63 : Nat) := by
  simp [ftotal, BitVec.extractLsb'_toNat]

theorem fkey_eq (a : F64) :
    fkey a = if fsign a then -((a.toNat % 2 ^ 63 : Nat) : Int) else (a.toNat % 2 ^ 63 : Nat) := by
  simp [fkey, BitVec.extractLsb'_toNat]

/-- R15's order tells any two values apart. -/
theorem ftotal_injective {a b : F64} (h : ftotal a = ftotal b) : a = b := by
  have ha := a.isLt
  have hb := b.isLt
  rw [ftotal_eq, ftotal_eq, fsign_eq, fsign_eq] at h
  simp only [decide_eq_true_eq] at h
  apply BitVec.eq_of_toNat_eq
  split_ifs at h <;> omega

/-- R15's order refines the order of the comparisons. -/
theorem fkey_le_of_ftotal_le {a b : F64} (h : ftotal a ≤ ftotal b) : fkey a ≤ fkey b := by
  rw [ftotal_eq, ftotal_eq] at h
  rw [fkey_eq, fkey_eq]
  split_ifs at * <;> omega

theorem fle_of_ftotal_le {a b : F64} (ha : fisNaN a = false) (hb : fisNaN b = false)
    (h : ftotal a ≤ ftotal b) : fle a b = true := by
  simp [fle, ha, hb, fkey_le_of_ftotal_le h]

/-! ## fmax, fmin and maxseq -/

theorem fmax_of_isNaN {a b : F64} (h : fisNaN a = true ∨ fisNaN b = true) : fmax a b = fnan := by
  rw [fmax, if_pos (by simpa using h)]

theorem fmin_of_isNaN {a b : F64} (h : fisNaN a = true ∨ fisNaN b = true) : fmin a b = fnan := by
  rw [fmin, if_pos (by simpa using h)]

section
variable {a b : F64} (ha : fisNaN a = false) (hb : fisNaN b = false)
include ha hb

theorem fmax_eq : fmax a b = if ftotal a < ftotal b then b else a := by simp [fmax, ha, hb]

theorem fmin_eq : fmin a b = if ftotal b < ftotal a then b else a := by simp [fmin, ha, hb]

theorem fmax_eq_or : fmax a b = a ∨ fmax a b = b := by
  rw [fmax_eq ha hb]
  split
  · exact .inr rfl
  · exact .inl rfl

theorem fmin_eq_or : fmin a b = a ∨ fmin a b = b := by
  rw [fmin_eq ha hb]
  split
  · exact .inr rfl
  · exact .inl rfl

theorem fisNaN_fmax : fisNaN (fmax a b) = false := by
  rcases fmax_eq_or ha hb with h | h <;> rwa [h]

theorem ftotal_fmax : ftotal (fmax a b) = max (ftotal a) (ftotal b) := by
  rw [fmax_eq ha hb]
  split <;> omega

theorem ftotal_fmin : ftotal (fmin a b) = min (ftotal a) (ftotal b) := by
  rw [fmin_eq ha hb]
  split <;> omega

theorem fmax_comm : fmax a b = fmax b a :=
  ftotal_injective (by rw [ftotal_fmax ha hb, ftotal_fmax hb ha, max_comm])

theorem fmin_comm : fmin a b = fmin b a :=
  ftotal_injective (by rw [ftotal_fmin ha hb, ftotal_fmin hb ha, min_comm])

theorem fle_fmax : fle a (fmax a b) = true ∧ fle b (fmax a b) = true := by
  have hn := fisNaN_fmax ha hb
  have hm := ftotal_fmax ha hb
  exact ⟨fle_of_ftotal_le ha hn (by omega), fle_of_ftotal_le hb hn (by omega)⟩

theorem fmin_fle : fle (fmin a b) a = true ∧ fle (fmin a b) b = true := by
  have hn : fisNaN (fmin a b) = false := by rcases fmin_eq_or ha hb with h | h <;> rwa [h]
  have hm := ftotal_fmin ha hb
  exact ⟨fle_of_ftotal_le hn ha (by omega), fle_of_ftotal_le hn hb (by omega)⟩

end

theorem maxseq_append (v w : F64) (vs : List F64) :
    maxseq v (vs ++ [w]) = fmax (maxseq v vs) w := by
  rw [maxseq, List.foldl_append]
  rfl

/-- Of values that are not NaN the fold keeps one that is the greatest so far. -/
theorem maxseq_greatest (v : F64) (vs : List F64) (h : ∀ x ∈ v :: vs, fisNaN x = false) :
    maxseq v vs ∈ v :: vs ∧ ∀ x ∈ v :: vs, ftotal x ≤ ftotal (maxseq v vs) := by
  induction vs using List.reverseRecOn with
  | nil => simp [maxseq]
  | append_singleton ws w ih =>
    have hold : ∀ x ∈ v :: ws, fisNaN x = false := fun x hx => h x (by simp at hx ⊢; tauto)
    have hw : fisNaN w = false := h w (by simp)
    obtain ⟨hmem, hmax⟩ := ih hold
    have hm := ftotal_fmax (hold _ hmem) hw
    rw [maxseq_append]
    refine ⟨?_, fun x hx => ?_⟩
    · rcases fmax_eq_or (hold _ hmem) hw with e | e <;> rw [e]
      · exact List.mem_append_left [w] hmem
      · simp
    · rcases List.mem_append.1 (show x ∈ (v :: ws) ++ [w] from hx) with hx | hx
      · have := hmax x hx
        omega
      · rw [List.mem_singleton.1 hx]
        omega

/-- Settles O48: `fmax` and `fmin` are the maximum and the minimum of R15's total order. -/
theorem maxAndMinFollowTheOrder : Obligations.MaxAndMinFollowTheOrder := by
  refine ⟨fun a b => ⟨fun h => ?_, fun ha hb => ?_⟩, by decide, by decide,
    fun v w vs => ⟨rfl, maxseq_append v w vs⟩, fun v vs h => ?_⟩
  · rw [fmax_of_isNaN h, fmin_of_isNaN h]
    decide
  · exact ⟨fmax_eq_or ha hb, (fle_fmax ha hb).1, (fle_fmax ha hb).2, fmin_eq_or ha hb,
      (fmin_fle ha hb).1, (fmin_fle ha hb).2, fmax_comm ha hb, fmin_comm ha hb⟩
  · obtain ⟨hmem, hmax⟩ := maxseq_greatest v vs h
    exact ⟨hmem, fun x hx => fle_of_ftotal_le (h x hx) (h _ hmem) (hmax x hx)⟩

end Sys2Proof.Machine

/-! SUPPORT. The bits of a NaN result (R14). -/

namespace Sys2Proof.Machine

/-! ## NaN bits (R14) -/

theorem fexpo_eq_2047_iff (a : F64) :
    fexpo a = 2047 ↔ ∀ i, 52 ≤ i → i < 63 → a.getLsbD i = true := by
  have hall : fexpo a = 2047 ↔ a.extractLsb' 52 11 = BitVec.allOnes 11 :=
    ⟨fun h => BitVec.eq_of_toNat_eq h, fun h => by rw [fexpo, h]; decide⟩
  rw [hall]
  constructor
  · intro h i hlo hhi
    have hbit := congrArg (BitVec.getLsbD · (i - 52)) h
    rw [BitVec.getLsbD_extractLsb', BitVec.getLsbD_allOnes] at hbit
    simpa [show i - 52 < 11 by omega, show 52 + (i - 52) = i by omega] using hbit
  · intro h
    apply BitVec.eq_of_getLsbD_eq
    intro i hi
    rw [BitVec.getLsbD_extractLsb', BitVec.getLsbD_allOnes, h (52 + i) (by omega) (by omega),
      Bool.and_true]

theorem ffrac_ne_zero_of_bit51 {a : F64} (h : a.getLsbD 51 = true) : ffrac a ≠ 0 := by
  intro h0
  have hz : a.extractLsb' 0 52 = 0#52 := BitVec.eq_of_toNat_eq h0
  have hbit := congrArg (BitVec.getLsbD · 51) hz
  rw [BitVec.getLsbD_extractLsb', h] at hbit
  simp at hbit

theorem fisNaN_of_bits {a : F64} (h : ∀ i, 51 ≤ i → i < 63 → a.getLsbD i = true) :
    fisNaN a = true := by
  have he := (fexpo_eq_2047_iff a).2 (fun i hlo hhi => h i (by omega) hhi)
  have hf := ffrac_ne_zero_of_bit51 (h 51 (by decide) (by decide))
  simp [fisNaN, he, hf]

theorem getLsbD_of_fisNaN {a : F64} (h : fisNaN a = true) {i : Nat} (hlo : 52 ≤ i) (hhi : i < 63) :
    a.getLsbD i = true := by
  simp only [fisNaN, Bool.and_eq_true, beq_iff_eq] at h
  exact (fexpo_eq_2047_iff a).1 h.1 i hlo hhi

theorem getLsbD_quietNaN (d : BitVec 52) (i : Nat) :
    (quietNaN d).getLsbD i =
      if i < 51 then d.getLsbD i else if i < 63 then true else decide (i = 63) && d.getLsbD 51 := by
  change (d.extractLsb' 51 1 ++ BitVec.allOnes 11 ++ BitVec.allOnes 1 ++ d.extractLsb' 0 51 :
    BitVec (1 + 11 + 1 + 51)).getLsbD i = _
  simp only [BitVec.getLsbD_append, BitVec.getLsbD_extractLsb', BitVec.getLsbD_allOnes]
  rcases Nat.lt_or_ge i 51 with hpay | hpay
  · simp [hpay]
  rcases Nat.lt_or_ge i 63 with hones | hones
  · simp only [show ¬ i < 51 by omega, hones, if_true, if_false]
    split_ifs with hquiet hexpo
    · exact decide_eq_true hquiet
    · exact decide_eq_true hexpo
    · omega
  · rcases Nat.eq_or_lt_of_le hones with rfl | hout
    · rfl
    · simp [show ¬ i < 51 by omega, show ¬ i - 51 < 1 by omega, show ¬ i - 51 - 1 < 11 by omega,
        show ¬ i < 63 by omega, show ¬ i - 51 - 1 - 11 < 1 by omega, show i ≠ 63 by omega]

/-- The draw whose quiet NaN is `q`: its sign over its payload. -/
def drawOf (q : F64) : BitVec 52 := q.extractLsb' 63 1 ++ q.extractLsb' 0 51

theorem getLsbD_drawOf (q : F64) (i : Nat) :
    (drawOf q).getLsbD i = if i < 51 then q.getLsbD i else decide (i = 51) && q.getLsbD 63 := by
  change (q.extractLsb' 63 1 ++ q.extractLsb' 0 51 : BitVec (1 + 51)).getLsbD i = _
  simp only [BitVec.getLsbD_append, BitVec.getLsbD_extractLsb']
  rcases Nat.lt_trichotomy i 51 with hpay | rfl | hout
  · simp [hpay]
  · rfl
  · rw [if_neg (by omega), if_neg (by omega), decide_eq_false (by omega),
      decide_eq_false (by omega)]
    rfl

theorem quietNaN_drawOf {q : F64} (h : fisNaN q = true) (h51 : q.getLsbD 51 = true) :
    quietNaN (drawOf q) = q := by
  apply BitVec.eq_of_getLsbD_eq
  intro i hi
  rw [getLsbD_quietNaN]
  split_ifs with hpay hones
  · rw [getLsbD_drawOf, if_pos hpay]
  · rcases eq_or_ne i 51 with rfl | hne
    · exact h51.symm
    · exact (getLsbD_of_fisNaN h (by omega) hones).symm
  · obtain rfl : i = 63 := by omega
    rw [getLsbD_drawOf, if_neg (by decide), decide_eq_true rfl, decide_eq_true rfl, Bool.true_and,
      Bool.true_and]

theorem getLsbD_quietNaN_ones (d : BitVec 52) {i : Nat} (hlo : 51 ≤ i) (hhi : i < 63) :
    (quietNaN d).getLsbD i = true := by
  rw [getLsbD_quietNaN, if_neg (by omega), if_pos hhi]

theorem settleNaN_of_not_isNaN (k : Nat) {v : F64} (h : fisNaN v = false) : settleNaN k v = v := by
  simp [settleNaN, h]

theorem settleNaN_of_isNaN (k : Nat) {v : F64} (h : fisNaN v = true) :
    settleNaN k v = quietNaN (Config.freeNaN k) := by
  simp [settleNaN, h]

/-- Settles O50: the bits of `quietNaN` are a draw's sign, eleven ones of exponent, the quiet bit
and the draw's payload. -/
theorem naNResultsAreQuietNaNs : Obligations.NaNResultsAreQuietNaNs := by
  refine ⟨fun k v h => settleNaN_of_not_isNaN k h, fun k v h => ?_,
    fun q h h51 => ⟨drawOf q, quietNaN_drawOf h h51⟩⟩
  rw [settleNaN_of_isNaN k h]
  exact ⟨fisNaN_of_bits (fun i => getLsbD_quietNaN_ones _),
    getLsbD_quietNaN_ones _ (by decide) (by decide)⟩

end Sys2Proof.Machine

/-! SUPPORT. The special values and bounds of the F_* parameters (R13). -/

namespace Sys2Proof.Machine

/-! ## Zeros and signs -/

theorem fisZero_iff {x : F64} : fisZero x = true ↔ x = fzero ∨ x = 0x8000000000000000 := by
  have hx := x.isLt
  rw [fisZero, fexpo_eq, ffrac_eq, BitVec.toNat_eq, BitVec.toNat_eq]
  simp [fzero]
  omega

theorem fisNaN_of_isZero {x : F64} (h : fisZero x = true) : fisNaN x = false := by
  rcases fisZero_iff.1 h with rfl | rfl <;> decide

theorem not_flt_of_isZero {x : F64} (h : fisZero x = true) :
    flt x fzero = false ∧ flt fzero x = false := by
  rcases fisZero_iff.1 h with rfl | rfl <;> decide

theorem fisNaN_of_flt {a b : F64} (h : flt a b = true) : fisNaN a = false ∧ fisNaN b = false := by
  simp only [flt, Bool.and_eq_true, Bool.not_eq_true'] at h
  exact h.1

theorem fsign_of_flt_zero {x : F64} (h : flt x fzero = true) : fsign x = true := by
  simp only [flt, Bool.and_eq_true, decide_eq_true_eq] at h
  have hk := h.2
  rw [fkey_eq, show fkey fzero = 0 by decide] at hk
  split at hk
  · assumption
  · omega

theorem fcanon_of_not_isNaN {x : F64} (h : fisNaN x = false) : fcanon x = x := by
  simp [fcanon, h]

theorem fisNaN_fcanon (x : F64) : fisNaN (fcanon x) = fisNaN x := by
  unfold fcanon
  split
  · next h => rw [h]; decide
  · rfl

/-! ## The F_* parameters (R13) -/

theorem clampUnit_bounds (v : F64) :
    fle fnegOne (clampUnit v) = true ∧ fle (clampUnit v) fone = true := by
  unfold clampUnit
  split
  · next h => simpa using h
  · decide

theorem fCos_of_isZero {x : F64} (h : fisZero x = true) : fCos x = fone := by
  rw [fCos, if_pos h]

theorem fSin_of_isZero {x : F64} (h : fisZero x = true) : fSin x = x := by
  rw [fSin, if_pos h]

theorem fCos_bounds {x : F64} (h : fisFinite x = true) :
    fle fnegOne (fCos x) = true ∧ fle (fCos x) fone = true := by
  cases h0 : fisZero x with
  | true =>
    rw [fCos_of_isZero h0]
    decide
  | false =>
    rw [fCos, h0, if_neg Bool.false_ne_true, if_pos h]
    exact clampUnit_bounds _

theorem fSin_bounds {x : F64} (h : fisFinite x = true) :
    fle fnegOne (fSin x) = true ∧ fle (fSin x) fone = true := by
  cases h0 : fisZero x with
  | true =>
    rw [fSin_of_isZero h0]
    rcases fisZero_iff.1 h0 with rfl | rfl <;> decide
  | false =>
    rw [fSin, h0, if_neg Bool.false_ne_true, if_pos h]
    exact clampUnit_bounds _

section
variable (raw : F64 → F64)

theorem logSpecial_of_isZero {x : F64} (h : fisZero x = true) : logSpecial raw x = fninf := by
  simp [logSpecial, fisNaN_of_isZero h, h]

theorem logSpecial_isNaN {x : F64} (h : flt x fzero = true ∨ fisNaN x = true) :
    fisNaN (logSpecial raw x) = true := by
  unfold logSpecial
  split
  · decide
  · next hn =>
    have hlt := h.resolve_right hn
    have h0 : ¬ fisZero x = true := fun h0 => by simp [not_flt_of_isZero h0] at hlt
    rw [if_neg h0, if_pos (fsign_of_flt_zero hlt)]
    decide

theorem logSpecial_one : logSpecial raw fone = fzero := rfl

theorem logSpecial_inf : logSpecial raw finf = finf := rfl

end

theorem fPow_of_isZero (x : F64) {y : F64} (h : fisZero y = true) : fPow x y = fone := by
  rw [fPow, if_pos h]

theorem fPow_one_left (y : F64) : fPow fone y = fone := by
  unfold fPow
  split <;> rfl

theorem fPow_zero_left {y : F64} (h : flt fzero y = true) : fPow fzero y = fzero := by
  have h0 : ¬ fisZero y = true := fun h0 => by simp [not_flt_of_isZero h0] at h
  rw [fPow, if_neg h0, if_neg (by decide)]
  split
  · rfl
  · have hn : ¬ (fisNaN fzero || fisNaN y) = true := by simp [fisNaN_of_flt h]
    rw [if_neg hn, if_pos (by simp [h])]

theorem fPow_one_right {x : F64} (h : fisNaN x = false) : fPow x fone = x := by
  rw [fPow, if_neg (by decide)]
  split
  · next hx => exact hx.symm
  · rw [if_pos rfl, fcanon_of_not_isNaN h]

theorem fPow_isNaN {x y : F64}
    (h : (fisNaN x = true ∧ fisZero y = false) ∨ (fisNaN y = true ∧ x ≠ fone)) :
    fisNaN (fPow x y) = true := by
  have h0 : ¬ fisZero y = true := by
    rcases h with ⟨_, h0⟩ | ⟨hn, _⟩
    · simp [h0]
    · exact fun h0 => by simp [fisNaN_of_isZero h0] at hn
  have h1 : x ≠ fone := by
    rcases h with ⟨hn, _⟩ | ⟨_, h1⟩
    · rintro rfl
      exact absurd hn (by decide)
    · exact h1
  rw [fPow, if_neg h0, if_neg h1]
  split
  · next hy =>
    rw [fisNaN_fcanon]
    refine h.elim And.left fun hn => ?_
    rw [hy] at hn
    exact absurd hn.1 (by decide)
  · have hn : (fisNaN x || fisNaN y) = true := by
      simpa using h.imp And.left And.left
    rw [if_pos hn]
    decide

theorem fAtan2_zero_left {x : F64} (h : flt fzero x = true) : fAtan2 fzero x = fzero := by
  simp [fAtan2, h]

/-- Settles O49: every special value is decided before the free part is asked. -/
theorem transcendentalSpecialValues : Obligations.TranscendentalSpecialValues :=
  ⟨fCos_of_isZero rfl, fCos_of_isZero rfl, fSin_of_isZero rfl, fSin_of_isZero rfl, rfl,
    logSpecial_one _, logSpecial_one _,
    fun _ h => ⟨logSpecial_of_isZero _ h, logSpecial_of_isZero _ h⟩,
    fun _ h => ⟨logSpecial_isNaN _ h, logSpecial_isNaN _ h⟩,
    logSpecial_inf _, logSpecial_inf _,
    fun x _ => fPow_of_isZero x, fPow_one_left, fun _ => fPow_zero_left, fun _ => fPow_one_right,
    fun _ _ => fPow_isNaN, fun _ => fAtan2_zero_left,
    fun _ h => ⟨(fCos_bounds h).1, (fCos_bounds h).2, (fSin_bounds h).1, (fSin_bounds h).2⟩⟩

end Sys2Proof.Machine

/-! SUPPORT. The host's side does not reach a running command (R17, R116, R365). -/

namespace Sys2Proof.Machine

/-! ## The host's side and the running command (R365) -/

/-- `s` with the configuration registers, CTRL and the host's side replaced. -/
def State.withHostSide (c : ConfigRegs) (q : Bool) (ops : List HostOp) (b : Option BusTxn)
    (r : Option BusResp) (s : State) : State :=
  { s with cfg := c, irqEn := q, host := ops, held := b, resp := r }

section
variable (c : ConfigRegs) (q : Bool) (ops : List HostOp) (b : Option BusTxn) (r : Option BusResp)

/-- A command's checks read its snapshot, the plan, the parameters and nothing of the host's. -/
theorem commandError_withHostSide (i : Instr) (s : State) :
    commandError i (s.withHostSide c q ops b r) = commandError i s := by
  cases i <;> rfl

theorem exec_withHostSide_of_next {i : Instr} {s t : State} (h : exec i s = .next t) :
    exec i (s.withHostSide c q ops b r) = .next (t.withHostSide c q ops b r) := by
  have herr := commandError_withHostSide c q ops b r i s
  rcases exec_cases i s with ⟨e, he, hx⟩ | ⟨he, u, hu, hx⟩ | ⟨-, hx⟩ <;> rw [hx] at h <;> cases h
  · exact exec_fail (herr.trans he)
  · rw [he] at herr
    cases hu with
    | nop => exact exec_nop
    | plan => exact exec_plan_ok herr
    | fftFwd p x hp hr => exact exec_fftFwd_ok herr hp hr
    | fftReal p x hp hr => exact exec_fftReal_ok herr hp hr
    | fftInv p x hp hr => exact exec_fftInv_ok herr hp hr
    | winGen => exact exec_winGen_ok herr
    | melBuild => exact exec_melBuild_ok herr
    | spectrogram p x win mel hp hr hw hm => exact exec_spectrogram_ok herr hp hr hw hm

/-- Putting the old host's side back turns a completion into one, so a fault stays a fault. -/
theorem exec_withHostSide (i : Instr) (s : State) :
    exec i (s.withHostSide c q ops b r) = mapNext (State.withHostSide c q ops b r) (exec i s) := by
  have hback {t : State} (h : exec i (s.withHostSide c q ops b r) = .next t) :=
    exec_withHostSide_of_next s.cfg s.irqEn s.host s.held s.resp h
  rcases exec_cases i s with ⟨e, -, hx⟩ | ⟨-, u, -, hx⟩ | ⟨-, hx⟩
  · rw [hx]
    exact exec_withHostSide_of_next c q ops b r hx
  · rw [hx]
    exact exec_withHostSide_of_next c q ops b r hx
  · rcases exec_cases i (s.withHostSide c q ops b r) with ⟨e, -, h⟩ | ⟨-, u, -, h⟩ | ⟨-, h⟩
    · exact absurd (hx.symm.trans (hback h)) nofun
    · exact absurd (hx.symm.trans (hback h)) nofun
    · rw [hx, h]
      rfl

end

/-- Settles O43: every check, read and result of a command is of the rest of the state. -/
theorem hostSideDoesNotReachTheRunningCommand :
    Obligations.HostSideDoesNotReachTheRunningCommand :=
  fun i s c q ops b r => exec_withHostSide c q ops b r i s

end Sys2Proof.Machine

/-! SUPPORT. What phase 3 of a command changes, and where it writes (R81, R119, R141, R270). -/

namespace Sys2Proof.Machine

variable {s u : State} {i : Instr}

/-! ## The frame of a command -/

theorem Phase3.hostSideKept (h : Phase3 s i u) : HostSideKept s u.complete := by
  obtain ⟨hparams, hrst, hirq, -, hcfg, hheld, hhost, hresp, -⟩ := h.keeps
  exact ⟨hparams, hrst, hirq, hcfg, hheld, hhost, hresp⟩

theorem Phase3.planKept (h : Phase3 s i u) (hi : i ≠ .plan) : PlanKept s u.complete := by
  cases h with
  | plan => exact absurd rfl hi
  | nop | fftFwd | fftReal | fftInv | winGen | melBuild | spectrogram =>
    exact ⟨rfl, rfl, rfl, rfl, rfl, rfl⟩

theorem Phase3.shapeKept (h : Phase3 s i u) (hi : i ≠ .spectrogram) : ShapeKept s u.complete := by
  cases h with
  | spectrogram => exact absurd rfl hi
  | nop | plan | fftFwd | fftReal | fftInv | winGen | melBuild => exact ⟨rfl, rfl, rfl⟩

theorem Phase3.cmdOverrun_eq (h : Phase3 s i u) : u.status.cmdOverrun = s.status.cmdOverrun := by
  obtain ⟨-, -, -, -, -, -, -, -, -, -, -, hover⟩ := h.keeps
  exact hover

/-- A failure changes flags and ERR_CODE only (R312). -/
theorem fail_kept (s : State) (e : Err) :
    HostSideKept s (s.fail e) ∧ PlanKept s (s.fail e) ∧ ShapeKept s (s.fail e) :=
  ⟨⟨rfl, rfl, rfl, rfl, rfl, rfl, rfl⟩, ⟨rfl, rfl, rfl, rfl, rfl, rfl⟩, ⟨rfl, rfl, rfl⟩⟩

/-- Settles O22: a failure changes no such register, and a success what phase 3 changes. -/
theorem commandsKeepTheOtherRegisters : Obligations.CommandsKeepTheOtherRegisters := by
  intro i s t h
  rcases exec_cases i s with ⟨e, -, hx⟩ | ⟨-, u, hu, hx⟩ | ⟨-, hx⟩ <;> rw [hx] at h <;> cases h
  · obtain ⟨hhost, hplan, hshape⟩ := fail_kept s e
    exact ⟨hhost, rfl, fun _ => hplan, fun _ => hshape, ⟨rfl, rfl⟩⟩
  · exact ⟨hu.hostSideKept, hu.cmdOverrun_eq, hu.planKept, hu.shapeKept, ⟨rfl, rfl⟩⟩

/-! ## The words a command writes -/

/-- The interval whose range a command checks before it writes: `writeSpan` but for a transform, which
checks PLAN_OBUF words (R142, R175). -/
def checkedSpan (i : Instr) (s : State) : Interval :=
  match i with
  | .fftFwd | .fftReal | .fftInv => fftWrites s
  | .nop | .plan | .winGen | .melBuild | .spectrogram => writeSpan i s

theorem anyOutOfRange_eq_false_iff {p : Params} {is : List Interval} :
    anyOutOfRange p is = false ↔ ∀ iv ∈ is, outOfRange p iv = false := by
  simp [anyOutOfRange]

theorem fftWrites_in_range {n : Nat} (h : fftBufferError s n = none) :
    outOfRange s.params (fftWrites s) = false := by
  have hrange := firstError_eq_none.1 h _ (.head _)
  exact anyOutOfRange_eq_false_iff.1 hrange _ (by simp)

theorem checkedSpan_in_range (h : commandError i s = none) :
    outOfRange s.params (checkedSpan i s) = false := by
  cases i with
  | nop => rfl
  | plan => rfl
  | fftFwd =>
    obtain ⟨p, hp⟩ := plan_of_fftFwd_ok h
    simp only [commandError, hp] at h
    exact fftWrites_in_range h
  | fftReal =>
    obtain ⟨p, hp⟩ := plan_of_fftReal_ok h
    simp only [commandError, hp] at h
    exact fftWrites_in_range h
  | fftInv =>
    obtain ⟨p, hp⟩ := plan_of_fftInv_ok h
    simp only [commandError, hp] at h
    exact fftWrites_in_range h
  | winGen =>
    have hrange := firstError_eq_none.1 h _ (.tail _ (.head _))
    exact anyOutOfRange_eq_false_iff.1 hrange _ (.head _)
  | melBuild =>
    have hrange := firstError_eq_none.1 h _ (.tail _ (.tail _ (.tail _ (.head _))))
    exact anyOutOfRange_eq_false_iff.1 hrange _ (.head _)
  | spectrogram =>
    have hrange := firstError_eq_none.1 h _ (List.mem_append_right _ (.head _))
    exact anyOutOfRange_eq_false_iff.1 hrange _ (by simp [checkedSpan, writeSpan])

theorem State.Inv.two_mul_planLen_le (h : s.Inv) : 2 * planLen s ≤ s.planObuf.toNat := by
  have hshown := h.planShown
  unfold PlanShown at hshown
  cases hp : s.plan with
  | none => simp [planLen, hp]
  | some p =>
    rw [hp] at hshown
    obtain ⟨-, -, -, -, hobuf⟩ := hshown
    obtain ⟨hbuild, hcheck⟩ := h.planLegal p hp
    have hle := (buildPlan_bounds h.params hcheck).1
    rw [← hbuild] at hle
    simpa [planLen, hp, hobuf] using hle

/-- A transform writes no more words than it has checked; the other commands exactly those. -/
theorem writeSpan_le_checkedSpan (h : s.Inv) (i : Instr) :
    (writeSpan i s).start = (checkedSpan i s).start ∧
    (writeSpan i s).len ≤ (checkedSpan i s).len := by
  have hlen := h.two_mul_planLen_le
  cases i with
  | fftFwd | fftReal | fftInv => exact ⟨rfl, hlen⟩
  | nop | plan | winGen | melBuild | spectrogram => exact ⟨rfl, le_rfl⟩

/-- Every byte a command writes lies in the DMEM window (R80, R81, R90). -/
theorem inDmemWindow_of_written (h : s.Inv) (hce : commandError i s = none) {a : Nat}
    (hlo : byteAddr (writeSpan i s).start 0 ≤ a)
    (hhi : a < byteAddr ((writeSpan i s).start + (writeSpan i s).len) 0) :
    inDmemWindow s.params a = true := by
  obtain ⟨hstart, hlen⟩ := writeSpan_le_checkedSpan h i
  have hrange := mt outOfRange_iff.2 (Bool.eq_false_iff.1 (checkedSpan_in_range hce))
  simp only [byteAddr, dmemBase] at hlo hhi
  rw [inDmemWindow_iff]
  omega

/-! ## The plan a command leaves -/

theorem installPlan_shown {n : Nat} (hp : s.params.Legal)
    (hn : checkPlanLength s.params n = none) : PlanShown (s.installPlan (buildPlan n)) := by
  obtain ⟨-, hobuf, hinner, hlt⟩ := buildPlan_bounds hp hn
  have hpn : (buildPlan n).pn < 2 ^ 32 := by rwa [pn_buildPlan]
  exact ⟨rfl, rfl, (BitVec.toNat_ofNat _ _).trans (Nat.mod_eq_of_lt hpn),
    (BitVec.toNat_ofNat _ _).trans (Nat.mod_eq_of_lt hinner),
    (BitVec.toNat_ofNat _ _).trans (Nat.mod_eq_of_lt hobuf)⟩

theorem planShown_of_kept (hk : PlanKept s u) (h : PlanShown s) : PlanShown u := by
  obtain ⟨hplan, hcur, hm, hobuf, hvalid, hbs⟩ := hk
  unfold PlanShown
  rw [hplan, hcur, hm, hobuf, hvalid, hbs]
  exact h

/-- What a command leaves is the old plan, or the one PLAN has built, and it is shown. -/
theorem Phase3.plan_ok (hu : Phase3 s i u) (h : s.Inv) (hce : commandError i s = none) :
    (∀ p, u.plan = some p → PlanLegal s.params p) ∧ PlanShown u.complete := by
  rcases eq_or_ne i .plan with rfl | hi
  · cases hu
    refine ⟨fun p hp => ?_, installPlan_shown h.params hce⟩
    cases hp
    exact ⟨by rw [pn_buildPlan], by rwa [pn_buildPlan]⟩
  · have hk := hu.planKept hi
    exact ⟨fun p hp => h.planLegal p (hk.plan ▸ hp), planShown_of_kept hk h.planShown⟩

end Sys2Proof.Machine

/-! SUPPORT. The invariant, kept by each operation of the machine and so by every step. -/

namespace Sys2Proof.Machine

variable {s t u : State}

/-! ## The engine's turn -/

theorem State.Inv.fail (h : s.Inv) (hrst : s.rstN = true) (e : Err) : (s.fail e).Inv :=
  { h with
    idle := fun _ => ⟨rfl, rfl, rfl⟩
    running := fun hb => absurd hb Bool.false_ne_true
    code := .inr ⟨e, rfl⟩
    errShown := fun _ => errNumber_ne_zero e
    inReset := fun hr => absurd (hrst.symm.trans hr) nofun }

theorem State.Inv.complete {i : Instr} (h : s.Inv) (hrst : s.rstN = true)
    (hbusy : s.status.busy = true) (hce : commandError i s = none) (hu : Phase3 s i u) :
    u.complete.Inv := by
  obtain ⟨hparams, hrstN, -, hcode, -, hheld, -, -, -, -, herr, -⟩ := hu.keeps
  obtain ⟨hplan, hshown⟩ := hu.plan_ok h hce
  obtain ⟨vs, hlen, hmem⟩ := hu.mem_eq
  obtain ⟨-, hnoerr, -⟩ := h.running hbusy
  exact {
    params := hparams ▸ h.params
    memWf := by
      rw [complete_mem, hmem]
      exact memWrite_wf _ _ h.memWf
    memWindow := fun c hc => by
      rw [complete_params, hparams]
      rw [complete_mem, hmem] at hc
      rcases mem_memWrite hc with hold | ⟨hlo, hhi⟩
      · exact h.memWindow c hold
      · rw [hlen] at hhi
        exact inDmemWindow_of_written h hce hlo hhi
    planLegal := fun p hp => hparams ▸ hplan p hp
    planShown := hshown
    idle := fun _ => ⟨rfl, rfl, rfl⟩
    running := fun hb => absurd hb Bool.false_ne_true
    code := hcode ▸ h.code
    errShown := fun hb => absurd (hnoerr.symm.trans (herr.symm.trans hb)) nofun
    heldWindow := fun a ha => hparams ▸ h.heldWindow a (hheld ▸ ha)
    inReset := fun hr => absurd (hrst.symm.trans (hrstN.symm.trans hr)) nofun }

theorem State.Inv.engineStep (h : s.Inv) (hrst : s.rstN = true) (hbusy : s.status.busy = true)
    (hs : engineStep s = .next t) : t.Inv := by
  rcases engineStep_cases s with ⟨e, hx⟩ | ⟨i, u, -, hce, hu, hx⟩ | hx <;>
    rw [hx] at hs <;> cases hs
  · exact h.fail hrst e
  · exact h.complete hrst hbusy hce hu

/-! ## What the host changes beside the block -/

theorem State.Inv.respond (h : s.Inv) (r : BusResp) : (s.respond r).Inv := { h with }

theorem State.Inv.withHost (h : s.Inv) (ops : List HostOp) : { s with host := ops }.Inv := { h with }

/-- An operation of the host is taken off the queue and counted against the latency. -/
theorem State.Inv.tick (h : s.Inv) (ops : List HostOp) :
    { s with host := ops, latency := s.latency - 1 }.Inv :=
  { h with
    idle := fun hb => by
      obtain ⟨hcmd, hsnap, hlat⟩ := h.idle hb
      exact ⟨hcmd, hsnap, by simp [hlat]⟩ }

theorem State.Inv.hold (h : s.Inv) (hrst : s.rstN = true) {a : BusTxn}
    (ha : inDmemWindow s.params a.addr = true) : { s with held := some a }.Inv :=
  { h with
    heldWindow := fun b hb => by cases hb; exact ha
    inReset := fun hr => absurd (hrst.symm.trans hr) nofun }

theorem State.Inv.release (h : s.Inv) : { s with held := none }.Inv :=
  { h with
    heldWindow := nofun
    inReset := fun hr => ⟨(h.inReset hr).1, rfl⟩ }

/-! ## Bus transactions -/

theorem State.Inv.writeCmd (h : s.Inv) (hrst : s.rstN = true) (w : Word) : (writeCmd w s).Inv := by
  unfold Machine.writeCmd
  split
  · exact { h with }
  · exact
    { h with
      idle := nofun
      running := fun _ => ⟨rfl, rfl, rfl⟩
      code := .inl rfl
      errShown := nofun
      inReset := fun hr => absurd (hrst.symm.trans hr) nofun }

theorem State.Inv.writeStatus (h : s.Inv) (w : Word) :
    { s with status := statusWrite w s.status }.Inv :=
  { h with
    running := fun hb => by
      obtain ⟨hdone, herr, hcode⟩ := h.running hb
      exact ⟨by simp [hdone], by simp [herr], hcode⟩
    errShown := fun he => h.errShown (by simp at he; exact he.1) }

theorem State.Inv.writeReg (h : s.Inv) (hrst : s.rstN = true) (r : Reg) (w : Word) :
    (writeReg r w s).Inv := by
  cases r with
  | CMD => exact h.writeCmd hrst w
  | STATUS => exact h.writeStatus w
  | _ => exact { h with }

theorem State.Inv.writeWord (h : s.Inv) {k : Nat} (hk : k < dmemWords s.params) (w : Word) :
    { s with mem := s.mem.writeWord k w }.Inv :=
  { h with
    memWf := Memory.wf_writeWord k w h.memWf
    memWindow := fun c hc => by
      rcases Memory.mem_writeWord hc with hold | ⟨hlo, hhi⟩
      · exact h.memWindow c hold
      · simp only [byteAddr, dmemBase] at hlo hhi
        rw [inDmemWindow_iff]
        dsimp only
        omega }

theorem State.Inv.busAccess (h : s.Inv) (hrst : s.rstN = true) {a : BusTxn}
    (hs : busAccess a s = .next t) : t.Inv := by
  rcases busAccess_cases hs with ⟨r, rfl⟩ | ⟨r, w, -, rfl⟩ | ⟨k, w, hk, -, rfl⟩
  · exact h.respond r
  · exact (h.writeReg hrst r w).respond _
  · exact (h.writeWord hk w).respond .writeOk

theorem State.Inv.busIssue (h : s.Inv) (hrst : s.rstN = true) {a : BusTxn}
    (hs : busIssue a s = .next t) : t.Inv := by
  unfold Machine.busIssue at hs
  split at hs
  · next hwin =>
    cases hs
    exact h.hold hrst (Bool.and_eq_true_iff.1 hwin).2
  · exact h.busAccess hrst hs

/-! ## Reset -/

theorem resetOf_inv {p : Params} (hp : p.Legal) : (State.resetOf p).Inv where
  params := hp
  memWf := .nil
  memWindow := nofun
  planLegal := nofun
  planShown := ⟨rfl, rfl, rfl, rfl, rfl⟩
  idle := fun _ => ⟨rfl, rfl, rfl⟩
  running := nofun
  code := .inl rfl
  errShown := nofun
  heldWindow := nofun
  inReset := nofun

theorem State.Inv.resetFall (h : s.Inv) : (resetFall s).Inv :=
  { h with
    idle := fun _ => ⟨rfl, rfl, rfl⟩
    running := nofun
    heldWindow := nofun
    inReset := fun _ => ⟨rfl, rfl⟩ }

theorem State.Inv.resetRise (h : s.Inv) : (resetRise s).Inv := { resetOf_inv h.params with }

theorem State.Inv.setRstN (h : s.Inv) (level : Bool) : (setRstN level s).Inv := by
  unfold Machine.setRstN
  split
  · exact h
  · split
    · exact h.resetRise
    · exact h.resetFall

/-! ## The host's turn -/

theorem State.Inv.serveInReset (h : s.Inv) (op : HostOp) : (serveInReset op s).Inv := by
  cases op with
  | rstN level => exact h.setRstN level
  | bus | rmw | wait => exact h.respond .busError

theorem State.Inv.serve (h : s.Inv) (hrst : s.rstN = true) {op : HostOp}
    (hs : serve op s = .next t) : t.Inv := by
  cases op with
  | bus a => exact h.busIssue hrst hs
  | rmw r mask value =>
    cases hs
    exact (h.respond _).withHost _
  | wait =>
    cases hs
    unfold serveWait
    split
    · exact (h.respond _).withHost _
    · exact h.respond _
  | rstN level =>
    cases hs
    exact h.setRstN level

theorem State.Inv.hostStep (h : s.Inv) (hs : hostStep s = .next t) : t.Inv := by
  rcases hostStep_cases hs with rfl | ⟨op, rest, -, -, rfl⟩ | ⟨a, hrst, -, -, hacc⟩ |
    ⟨op, rest, hrst, -, -, hserve⟩
  · exact h
  · exact (h.withHost rest).serveInReset op
  · exact h.release.busAccess hrst hacc
  · exact (h.tick rest).serve hrst hserve

/-- Settles O39: the engine's turn and the host's turn each keep the invariant. -/
theorem everyStepKeepsTheInvariant : Obligations.EveryStepKeepsTheInvariant := by
  intro s t h hs
  cases hturn : turn s with
  | engine =>
    obtain ⟨hrst, hbusy, -⟩ := turn_engine_iff.1 hturn
    exact h.engineStep hrst hbusy (step_engine hturn ▸ hs)
  | host => exact h.hostStep (step_host hturn ▸ hs)

end Sys2Proof.Machine

/-! SUPPORT. What one step does to STATUS (R42, R115, R116, R350). -/

namespace Sys2Proof.Machine

variable {s t u : State}

/-- Every value the host's turn can leave in STATUS, with the event that gives it. -/
inductive HostStatus (s : State) : Status → Prop where
  | kept : HostStatus s s.status
  | accepted (w : Word) (hw : ServesWrite s .CMD w) (hb : s.status.busy = false) :
      HostStatus s (statusAccept s.status)
  | rejected (w : Word) (hw : ServesWrite s .CMD w) (hb : s.status.busy = true) :
      HostStatus s (statusOverrun s.status)
  | cleared (w : Word) (hw : ServesWrite s .STATUS w) : HostStatus s (statusWrite w s.status)
  | abandoned : HostStatus s (statusAbandon s.status)
  | reset (hr : ReleasesReset s) : HostStatus s (State.resetOf s.params).status

/-! ## Register writes -/

theorem writeCmd_of_busy (w : Word) (hb : s.status.busy = true) :
    writeCmd w s = { s with status := statusOverrun s.status } := if_pos hb

theorem writeCmd_of_idle (w : Word) (hb : s.status.busy = false) :
    writeCmd w s = { s.accept w (Config.freeLatency s.draws) with draws := s.draws + 1 } :=
  if_neg (Bool.eq_false_iff.1 hb)

theorem hostStatus_writeReg {r : Reg} {w : Word} (hw : ServesWrite s r w)
    (hu : u.status = s.status) : HostStatus s (writeReg r w u).status := by
  cases r with
  | CMD =>
    cases hb : s.status.busy with
    | true =>
      rw [writeReg, writeCmd_of_busy w (hu ▸ hb), hu]
      exact .rejected w hw hb
    | false =>
      rw [writeReg, writeCmd_of_idle w (hu ▸ hb)]
      change HostStatus s (statusAccept u.status)
      exact hu ▸ .accepted w hw hb
  | STATUS =>
    change HostStatus s (statusWrite w u.status)
    exact hu ▸ .cleared w hw
  | _ => exact hu ▸ .kept

/-- An access to the DMEM window writes no register. -/
theorem status_of_windowAccess {a : BusTxn} (hwin : inDmemWindow s.params a.addr = true)
    (h : busAccess a s = .next u) : u.status = s.status := by
  rcases busAccess_cases h with ⟨r, rfl⟩ | ⟨r, w, rfl, -⟩ | ⟨k, w, -, -, rfl⟩
  · rfl
  · rw [not_inDmemWindow_of_inRegBlock (inRegBlock_regOffset r)] at hwin
    cases hwin
  · rfl

/-! ## The host's turn -/

theorem hostStatus_busIssue {a : BusTxn} (hu : u.status = s.status)
    (hw : ∀ r w, HostOp.bus a = regWrite r w → ServesWrite s r w)
    (h : busIssue a u = .next t) : HostStatus s t.status := by
  unfold busIssue at h
  split at h
  · cases h
    exact hu ▸ .kept
  · rcases busAccess_cases h with ⟨r, rfl⟩ | ⟨r, w, rfl, rfl⟩ | ⟨k, w, -, -, rfl⟩
    · exact hu ▸ .kept
    · exact hostStatus_writeReg (hw r w rfl) hu
    · exact hu ▸ .kept

theorem status_setRstN (level : Bool) (s : State) :
    (setRstN level s).status = s.status ∨
    (level = false ∧ (setRstN level s).status = statusAbandon s.status) ∨
    (level = true ∧ s.rstN = false ∧
      (setRstN level s).status = (State.resetOf s.params).status) := by
  unfold setRstN
  split
  · exact .inl rfl
  · next hne =>
    cases level with
    | false => exact .inr (.inl ⟨rfl, rfl⟩)
    | true => exact .inr (.inr ⟨rfl, by simpa using hne, rfl⟩)

theorem hostStatus_setRstN {level : Bool} {rest : List HostOp}
    (hops : s.host = .rstN level :: rest) (hu : u.status = s.status) (hrst : u.rstN = s.rstN) :
    HostStatus s (setRstN level u).status := by
  rcases status_setRstN level u with h | ⟨-, h⟩ | ⟨rfl, hlow, h⟩ <;> rw [h]
  · exact hu ▸ .kept
  · exact hu ▸ .abandoned
  · exact .reset ⟨hrst ▸ hlow, rest, hops⟩

theorem hostStatus_serveInReset {op : HostOp} {rest : List HostOp} (hops : s.host = op :: rest) :
    HostStatus s (serveInReset op { s with host := rest }).status := by
  cases op with
  | rstN level => exact hostStatus_setRstN hops rfl rfl
  | bus | rmw | wait => exact .kept

theorem hostStatus_serve {op : HostOp} {rest : List HostOp} (hrst : s.rstN = true)
    (hturn : turn s = .host) (hfree : s.status.busy = true ∨ s.held = none)
    (hops : s.host = op :: rest)
    (h : serve op { s with host := rest, latency := s.latency - 1 } = .next t) :
    HostStatus s t.status := by
  cases op with
  | bus a =>
    exact hostStatus_busIssue (u := { s with host := rest, latency := s.latency - 1 }) rfl
      (fun r w ha => ⟨hrst, hturn, hfree, rest, by rw [hops, ha]⟩) h
  | rmw r mask value =>
    cases h
    exact .kept
  | wait =>
    cases h
    unfold serveWait
    split <;> exact .kept
  | rstN level =>
    cases h
    exact hostStatus_setRstN hops rfl rfl

theorem hostStep_status (hinv : s.Inv) (hturn : turn s = .host) (h : hostStep s = .next t) :
    HostStatus s t.status := by
  rcases hostStep_cases h with rfl | ⟨op, rest, -, hops, rfl⟩ | ⟨a, -, -, hheld, hacc⟩ |
    ⟨op, rest, hrst, hfree, hops, hserve⟩
  · exact .kept
  · exact hostStatus_serveInReset hops
  · rw [status_of_windowAccess (s := { s with held := none }) (hinv.heldWindow a hheld) hacc]
    exact .kept
  · exact hostStatus_serve hrst hturn hfree hops hserve

/-! ## The engine's turn -/

theorem engineStep_status (h : engineStep s = .next t) :
    t.status.done = true ∧ (t.status.err = s.status.err ∨ t.status.err = true) ∧
    t.status.cmdOverrun = s.status.cmdOverrun := by
  rcases engineStep_cases s with ⟨e, hx⟩ | ⟨i, u, -, -, hu, hx⟩ | hx <;> rw [hx] at h <;> cases h
  · exact ⟨rfl, .inr rfl, rfl⟩
  · obtain ⟨-, -, -, -, -, -, -, -, -, -, herr, hover⟩ := hu.keeps
    exact ⟨rfl, .inl herr, hover⟩

/-- A flag after a write of STATUS: as it was, or cleared by a 1 in its bit. -/
theorem flag_and_not (f b : Bool) : (f && !b) = f ∨ (b = true ∧ (f && !b) = false) := by
  cases b <;> simp

/-- Settles O41: the flags of each value the host's turn can leave in STATUS, and of the engine's. -/
theorem flagsChangeOnlyAsTheRulesSay : Obligations.FlagsChangeOnlyAsTheRulesSay := by
  intro s t hinv hs
  cases hturn : turn s with
  | engine =>
    obtain ⟨hdone, herr, hover⟩ := engineStep_status (step_engine hturn ▸ hs)
    exact ⟨.inr (.inl ⟨rfl, hdone⟩), herr.imp_right fun h => .inl ⟨rfl, h⟩, .inl hover⟩
  | host =>
    have hstatus := hostStep_status hinv hturn (step_host hturn ▸ hs)
    generalize t.status = f at hstatus ⊢
    cases hstatus with
    | kept | abandoned => exact ⟨.inl rfl, .inl rfl, .inl rfl⟩
    | accepted w hw hb =>
      exact ⟨.inr (.inr ⟨rfl, .inl ⟨w, hw, hb⟩⟩), .inr (.inr ⟨rfl, .inl ⟨w, hw, hb⟩⟩), .inl rfl⟩
    | rejected w hw hb => exact ⟨.inl rfl, .inl rfl, .inr (.inl ⟨rfl, w, hw, hb⟩)⟩
    | cleared w hw =>
      exact ⟨(flag_and_not ..).imp_right fun h => .inr ⟨h.2, .inr (.inl ⟨w, hw, h.1⟩)⟩,
        (flag_and_not ..).imp_right fun h => .inr ⟨h.2, .inr (.inl ⟨w, hw, h.1⟩)⟩,
        (flag_and_not ..).imp_right fun h => .inr ⟨h.2, .inl ⟨w, hw, h.1⟩⟩⟩
    | reset hr =>
      exact ⟨.inr (.inr ⟨rfl, .inr (.inr hr)⟩), .inr (.inr ⟨rfl, .inr (.inr hr)⟩),
        .inr (.inr ⟨rfl, .inr hr⟩)⟩

end Sys2Proof.Machine

/-! SUPPORT. The geometry of a plan (R44, R140, R170). -/

namespace Sys2Proof.Machine

theorem buildPlan_isBs (n : Nat) : (buildPlan n).isBs = !isPow2 n := by
  unfold buildPlan
  split
  · next h => rw [h]; rfl
  · next h => rw [Bool.eq_false_iff.2 h]; rfl

theorem nextPow2_isPow2 (n : Nat) : ∃ p, nextPow2 n = 2 ^ p := by
  unfold nextPow2
  split
  · exact ⟨0, rfl⟩
  · exact ⟨_, rfl⟩

theorem nextPow2_le_two_pow {n p : Nat} (h : n ≤ 2 ^ p) : nextPow2 n ≤ 2 ^ p := by
  unfold nextPow2
  split
  · exact Nat.one_le_two_pow
  · have hlog : Nat.log2 (n - 1) < p := (Nat.log2_lt (by omega)).2 (by omega)
    exact Nat.pow_le_pow_right Nat.two_pos hlog

/-- Settles O10: `buildPlan` follows `isPow2`, and `nextPow2` is the least power of two. -/
theorem planGeometryFollowsTheLength : Obligations.PlanGeometryFollowsTheLength := by
  intro n _
  rw [buildPlan_isBs, buildPlan_innerLen, buildPlan_obuf, ← isPow2_iff]
  refine ⟨fun h => ?_, fun h => ?_⟩
  · rw [h]
    exact ⟨rfl, rfl, rfl⟩
  · rw [Bool.eq_false_iff.2 h]
    exact ⟨rfl, rfl, nextPow2_isPow2 _, nextPow2_ge _, fun _ => nextPow2_le_two_pow⟩

end Sys2Proof.Machine

/-! SUPPORT. Register reads and writes (R32 to R49), irq (R53) and the registers after reset (R351). -/

namespace Sys2Proof.Machine

/-! ## Writes -/

/-- Read after write, for every pair of registers of R32's table. -/
theorem readReg_writeReg (s : State) (w : Word) {r : Reg} (hr : r ≠ .CMD) (r' : Reg) :
    readReg (writeReg r w s) r' =
      if r' = r then readReg (writeReg r w s) r else readReg s r' := by
  cases r with
  | CMD => exact absurd rfl hr
  | _ => cases r' <;> rfl

theorem writeReg_of_readOnly (s : State) (w : Word) {r : Reg} (hr : r ∈ roRegs) :
    writeReg r w s = s := by
  fin_cases hr <;> rfl

theorem regOffset_injective {r r' : Reg} (h : regOffset r = regOffset r') : r = r' := by
  have hat := congrArg regAt h
  simpa using hat

/-- Settles O32: a write stores in one field of the state, and every register reads one of its own. -/
theorem registerWriteChangesOnlyThatRegister :
    Obligations.RegisterWriteChangesOnlyThatRegister :=
  ⟨fun s w _ r' hr hne => (readReg_writeReg s w hr r').trans (if_neg hne),
    fun s w _ => writeReg_of_readOnly s w, fun _ _ => regOffset_injective,
    fun r => ⟨regOffset_aligned r, regOffset_lt r⟩⟩

/-- Storing the low `n` bits of a word and zero-extending them masks the word. -/
theorem setWidth_setWidth_eq_and (w : Word) (n : Nat) (hn : n ≤ 64) :
    (w.setWidth n).setWidth 64 = w &&& BitVec.ofNat 64 (2 ^ n - 1) := by
  have hpow : 2 ^ n ≤ 2 ^ 64 := Nat.pow_le_pow_right Nat.two_pos hn
  have hmod : w.toNat % 2 ^ n < 2 ^ n := Nat.mod_lt _ (Nat.two_pow_pos n)
  apply BitVec.eq_of_toNat_eq
  rw [BitVec.toNat_setWidth, BitVec.toNat_setWidth, BitVec.toNat_and, BitVec.toNat_ofNat,
    Nat.mod_eq_of_lt (a := 2 ^ n - 1) (by omega), Nat.and_two_pow_sub_one_eq_mod,
    Nat.mod_eq_of_lt (by omega)]

theorem readReg_writeReg_u32 (s : State) (w : Word) {r : Reg} (hr : r ∈ u32Regs) :
    readReg (writeReg r w s) r = (w.setWidth 32).setWidth 64 := by
  fin_cases hr <;> rfl

theorem readReg_writeReg_f64 (s : State) (w : Word) {r : Reg} (hr : r ∈ f64Regs) :
    readReg (writeReg r w s) r = w := by
  fin_cases hr <;> rfl

theorem ofBool_getLsbD_zero (w : Word) : BitVec.ofBool (w.getLsbD 0) = w.setWidth 1 := by
  apply BitVec.eq_of_getLsbD_eq
  intro i hi
  obtain rfl : i = 0 := by omega
  simp

/-- Settles O31: each configuration register keeps the low bits its width says. -/
theorem configurationRegistersReadBack : Obligations.ConfigurationRegistersReadBack := by
  intro s w
  refine ⟨fun r hr => ?_, fun _ => readReg_writeReg_f64 s w,
    setWidth_setWidth_eq_and w 5 (by decide), setWidth_setWidth_eq_and w 9 (by decide),
    setWidth_setWidth_eq_and w 17 (by decide), ?_⟩
  · rw [readReg_writeReg_u32 s w hr]
    exact setWidth_setWidth_eq_and w 32 (by decide)
  · change (BitVec.ofBool (w.getLsbD 0)).setWidth 64 = _
    rw [ofBool_getLsbD_zero]
    exact setWidth_setWidth_eq_and w 1 (by decide)

/-! ## STATUS and irq -/

/-- STATUS's bits from bit 0 up (R36). -/
def Status.bits (f : Status) : List Bool :=
  [f.busy, f.done, f.err, f.cmdOverrun, f.planValid, f.planBs]

/-- STATUS as the host reads it: its six bits, and 0 above. -/
theorem getLsbD_readReg_status (s : State) (i : Nat) :
    (readReg s .STATUS).getLsbD i = s.status.bits.getD i false := by
  change ((((((BitVec.concat (0#58) s.status.planBs).concat s.status.planValid).concat
    s.status.cmdOverrun).concat s.status.err).concat s.status.done).concat
    s.status.busy).getLsbD i = _
  rcases i with _ | _ | _ | _ | _ | _ | i <;> simp [Status.bits]

theorem getLsbD_readReg_status_high (s : State) {i : Nat} (h : 6 ≤ i) :
    (readReg s .STATUS).getLsbD i = false := by
  rw [getLsbD_readReg_status]
  exact List.getD_eq_default _ _ h

/-- Settles O33: bits 1, 2 and 3 are the three flags a STATUS write can clear. -/
theorem statusIsWriteOneToClear : Obligations.StatusIsWriteOneToClear := by
  intro s w
  refine ⟨BitVec.eq_of_getLsbD_eq fun i _ => ?_, rfl, BitVec.eq_of_getLsbD_eq fun i _ => ?_⟩
  · rw [BitVec.getLsbD_and]
    rcases Nat.lt_or_ge i 6 with hlow | hhigh
    · rw [getLsbD_readReg_status, getLsbD_readReg_status]
      interval_cases i <;> simp [writeReg, Status.bits]
    · rw [getLsbD_readReg_status_high _ hhigh, getLsbD_readReg_status_high _ hhigh, Bool.false_and]
  · rw [BitVec.getLsbD_and]
    rcases Nat.lt_or_ge i 6 with hlow | hhigh
    · interval_cases i <;> simp
    · rw [getLsbD_readReg_status_high _ hhigh, Bool.false_and]
      simp

theorem irq_writeCmd_of_idle {s : State} (w : Word) (hb : s.status.busy = false) :
    irq (writeReg .CMD w s) = false := by
  rw [writeReg, writeCmd_of_idle w hb]
  exact Bool.and_false _

theorem irq_writeCmd_of_busy {s : State} (w : Word) (hb : s.status.busy = true) :
    irq (writeReg .CMD w s) = irq s := by
  rw [writeReg, writeCmd_of_busy w hb]
  rfl

/-- Settles O34: CTRL's bit 0 is IRQ_EN and STATUS's bit 1 is DONE, which acceptance clears. -/
theorem irqIsEnableAndDone : Obligations.IrqIsEnableAndDone := by
  intro s
  refine ⟨?_, fun w => irq_writeCmd_of_idle w, fun w => irq_writeCmd_of_busy w⟩
  have hctrl : (readReg s .CTRL).getLsbD 0 = s.irqEn := by
    change ((BitVec.ofBool s.irqEn).setWidth 64).getLsbD 0 = _
    simp
  have hdone : (readReg s .STATUS).getLsbD 1 = s.status.done := getLsbD_readReg_status s 1
  rw [hctrl, hdone, irq, Bool.and_eq_true]

/-! ## Reset -/

theorem toNat_hwcfgValue {p : Params} (hp : p.Legal) :
    (hwcfgValue p).toNat = p.planMaxLog2 * 256 + p.dmemAw := by
  obtain ⟨-, haw, -, hmax⟩ := hp
  change ((0 : BitVec 48) ++ BitVec.ofNat 8 p.planMaxLog2 ++ BitVec.ofNat 8 p.dmemAw).toNat = _
  rw [BitVec.toNat_append, BitVec.toNat_append, ← Nat.shiftLeft_add_eq_or_of_lt (BitVec.isLt _),
    ← Nat.shiftLeft_add_eq_or_of_lt (BitVec.isLt _)]
  simp only [Nat.shiftLeft_eq, BitVec.toNat_ofNat, BitVec.ofNat_eq_ofNat]
  omega

theorem readReg_resetOf (p : Params) {r : Reg} (hid : r ≠ .ID) (hhw : r ≠ .HWCFG) :
    readReg (State.resetOf p) r = 0 := by
  cases r with
  | ID => exact absurd rfl hid
  | HWCFG => exact absurd rfl hhw
  | STATUS => exact (by decide : statusWord ⟨false, false, false, false, false, false⟩ = 0)
  | ERR_CODE => exact (by decide : errWord errNone = 0)
  | _ => rfl

/-- Settles O35: `resetOf` gives every field its value, and each register reads its own. -/
theorem resetGivesTheResetValues : Obligations.ResetGivesTheResetValues :=
  fun p hp => ⟨rfl, toNat_hwcfgValue hp, fun _ => readReg_resetOf p, rfl, rfl, rfl, fun _ => rfl⟩

end Sys2Proof.Machine

/-! SUPPORT. The DMEM words a command reads and those it writes (R18, R81, R99, R274). -/

namespace Sys2Proof.Machine

variable {s u : State} {i : Instr}

/-! ## Phase 3 and the operands it has read (R99) -/

theorem exec_of_phase3 (hce : commandError i s = none) (hu : Phase3 s i u) :
    exec i s = .next u.complete := by
  cases hu with
  | nop => exact exec_nop
  | plan => exact exec_plan_ok hce
  | fftFwd p x hp hx => exact exec_fftFwd_ok hce hp hx
  | fftReal p x hp hx => exact exec_fftReal_ok hce hp hx
  | fftInv p x hp hx => exact exec_fftInv_ok hce hp hx
  | winGen => exact exec_winGen_ok hce
  | melBuild => exact exec_melBuild_ok hce
  | spectrogram p x win mel hp hx hw hm => exact exec_spectrogram_ok hce hp hx hw hm

theorem planLen_of_plan {p : Plan} (hp : s.plan = some p) : planLen s = p.pn := by
  rw [planLen, hp]
  rfl

/-- MemRead answers when every word of its interval has been written. -/
theorem allWritten_iff_memRead {m : Memory} {a n : Nat} :
    allWritten m ⟨a, n⟩ ↔ ∃ vs, memRead m a n = some vs :=
  memRead_isSome.symm.trans Option.isSome_iff_exists

theorem allWritten_iff_cRead {m : Memory} {a n : Nat} :
    allWritten m ⟨a, 2 * n⟩ ↔ ∃ xs, cRead m a n = some xs := by
  rw [← Option.isSome_iff_exists, cRead, Option.isSome_map]
  exact memRead_isSome.symm

theorem operandsWritten_fftFwd {p : Plan} (hp : s.plan = some p) :
    operandsWritten .fftFwd s ↔ ∃ x, cRead s.mem s.snap.fftSrc.toNat p.pn = some x := by
  simp [operandsWritten, readSpans, fftReads, planLen_of_plan hp, allWritten_iff_cRead]

theorem operandsWritten_fftReal {p : Plan} (hp : s.plan = some p) :
    operandsWritten .fftReal s ↔ ∃ x, memRead s.mem s.snap.fftSrc.toNat p.pn = some x := by
  simp [operandsWritten, readSpans, fftReads, planLen_of_plan hp, allWritten_iff_memRead]

theorem operandsWritten_fftInv {p : Plan} (hp : s.plan = some p) :
    operandsWritten .fftInv s ↔ ∃ x, cRead s.mem s.snap.fftSrc.toNat p.pn = some x :=
  operandsWritten_fftFwd hp

/-- The mel matrix is read only when MEL_EN = 1 (R254). -/
theorem operandsWritten_spectrogram :
    operandsWritten .spectrogram s ↔
      (∃ x, memRead s.mem (sgOps s.snap).wa (sgOps s.snap).len = some x) ∧
      (∃ win, memRead s.mem (sgOps s.snap).wina (sgOps s.snap).fl = some win) ∧
      ∃ mel, sgReadMel s.mem (sgOps s.snap) = some mel := by
  cases hmel : (sgOps s.snap).melEn <;>
    simp [operandsWritten, readSpans, sgReads, sgReadMel, hmel, allWritten_iff_memRead]

theorem Phase3.operandsWritten (hu : Phase3 s i u) : operandsWritten i s := by
  cases hu with
  | nop | plan | winGen | melBuild => exact nofun
  | fftFwd p x hp hx => exact (operandsWritten_fftFwd hp).2 ⟨x, hx⟩
  | fftReal p x hp hx => exact (operandsWritten_fftReal hp).2 ⟨x, hx⟩
  | fftInv p x hp hx => exact (operandsWritten_fftInv hp).2 ⟨x, hx⟩
  | spectrogram p x win mel hp hx hw hm =>
    exact operandsWritten_spectrogram.2 ⟨⟨x, hx⟩, ⟨win, hw⟩, mel, hm⟩

theorem exists_phase3 (hce : commandError i s = none) (h : operandsWritten i s) :
    ∃ u, Phase3 s i u := by
  cases i with
  | nop => exact ⟨_, .nop⟩
  | plan => exact ⟨_, .plan⟩
  | winGen => exact ⟨_, .winGen⟩
  | melBuild => exact ⟨_, .melBuild⟩
  | fftFwd =>
    obtain ⟨p, hp⟩ := plan_of_fftFwd_ok hce
    obtain ⟨x, hx⟩ := (operandsWritten_fftFwd hp).1 h
    exact ⟨_, .fftFwd p x hp hx⟩
  | fftReal =>
    obtain ⟨p, hp⟩ := plan_of_fftReal_ok hce
    obtain ⟨x, hx⟩ := (operandsWritten_fftReal hp).1 h
    exact ⟨_, .fftReal p x hp hx⟩
  | fftInv =>
    obtain ⟨p, hp⟩ := plan_of_fftInv_ok hce
    obtain ⟨x, hx⟩ := (operandsWritten_fftInv hp).1 h
    exact ⟨_, .fftInv p x hp hx⟩
  | spectrogram =>
    obtain ⟨p, hp⟩ := plan_of_spectrogram_ok hce
    obtain ⟨⟨x, hx⟩, ⟨win, hw⟩, mel, hm⟩ := operandsWritten_spectrogram.1 h
    exact ⟨_, .spectrogram p x win mel hp hx hw hm⟩

/-- Settles O20: past its checks a command reaches phase 3, having read its operands, or faults. -/
theorem commandFaultsExactlyOnUnwrittenOperands :
    Obligations.CommandFaultsExactlyOnUnwrittenOperands := by
  intro i s
  rcases exec_cases i s with ⟨e, hce, hx⟩ | ⟨hce, u, hu, hx⟩ | ⟨hce, hx⟩ <;> rw [hce, hx]
  · exact iff_of_false nofun nofun
  · exact iff_of_false nofun fun h => h.2 hu.operandsWritten
  · refine iff_of_true rfl ⟨rfl, fun hw => ?_⟩
    obtain ⟨u, hu⟩ := exists_phase3 hce hw
    exact absurd (hx.symm.trans (exec_of_phase3 hce hu)) nofun

/-! ## The words outside the output interval (R81) -/

theorem Phase3.bytesKeptOutside (hu : Phase3 s i u) :
    BytesKeptOutside s u.complete (writeSpan i s) := by
  obtain ⟨vs, hlen, hmem⟩ := hu.mem_eq
  intro a ha
  rw [State.complete_mem, hmem]
  exact memWrite_readByte_outside _ _ _ _ (hlen ▸ ha)

theorem bytesKept_of_empty {iv : Interval} (h : BytesKeptOutside s u iv) (hlen : iv.len = 0) :
    BytesKept s u := by
  intro a
  refine h a ?_
  rw [hlen]
  exact Nat.lt_or_ge a _

/-- Settles O21: a failure writes nothing, and phase 3 its output interval; NOP and PLAN have none. -/
theorem commandsKeepTheOtherBytes : Obligations.CommandsKeepTheOtherBytes := by
  intro i s t h
  have hkept : BytesKeptOutside s t (writeSpan i s) := by
    rcases exec_cases i s with ⟨e, -, hx⟩ | ⟨-, u, hu, hx⟩ | ⟨-, hx⟩ <;> rw [hx] at h <;> cases h
    · exact fun _ _ => rfl
    · exact hu.bytesKeptOutside
  refine ⟨hkept, ?_⟩
  rintro (rfl | rfl)
  · exact bytesKept_of_empty hkept rfl
  · exact bytesKept_of_empty hkept rfl

/-! ## The outcome of a command, from what it reads (R92, R274) -/

/-- `r` with the operands of `s`: its parameters, snapshot, plan, PLAN_OBUF and draw counter. -/
def State.withOperandsOf (r s : State) : State :=
  { r with params := s.params, snap := s.snap, plan := s.plan, planObuf := s.planObuf,
           draws := s.draws }

/-- Every DMEM word the command reads in `s` is the same in `m`. -/
def SameReads (i : Instr) (s : State) (m : Memory) : Prop :=
  ∀ iv ∈ readSpans i s, ∀ k < iv.len, m.readWord (iv.start + k) = s.mem.readWord (iv.start + k)

/-- The command of `s` has the same results in `u` and `u'`: output words, plan, result registers. -/
structure SameResults (i : Instr) (s u u' : State) : Prop where
  words : ∀ k < (writeSpan i s).len,
    u'.mem.readWord ((writeSpan i s).start + k) = u.mem.readWord ((writeSpan i s).start + k)
  plan : u'.plan = u.plan
  shape : i = .spectrogram → u'.sgOutRows = u.sgOutRows ∧ u'.sgOutFrames = u.sgOutFrames ∧
    u'.sgCompFrames = u.sgCompFrames

theorem memRead_congr {m m' : Memory} {a n : Nat}
    (h : ∀ k < n, m'.readWord (a + k) = m.readWord (a + k)) : memRead m' a n = memRead m a n := by
  ext vs
  rw [memRead_eq_some, memRead_eq_some]
  exact and_congr_right fun _ => forall₂_congr fun k hk => by rw [h k hk]

theorem cRead_congr {m m' : Memory} {a n : Nat}
    (h : ∀ k < 2 * n, m'.readWord (a + k) = m.readWord (a + k)) : cRead m' a n = cRead m a n := by
  rw [cRead, memRead_congr h, cRead]

theorem sgReadMel_congr {m : Memory} (hr : SameReads .spectrogram s m) :
    sgReadMel m (sgOps s.snap) = sgReadMel s.mem (sgOps s.snap) := by
  unfold sgReadMel
  split
  · next hen => exact memRead_congr (hr ⟨_, _⟩ (by simp [readSpans, sgReads, hen]))
  · rfl

section
variable (r : State)

theorem commandError_withOperandsOf (i : Instr) (s : State) :
    commandError i (r.withOperandsOf s) = commandError i s := by
  cases i <;> rfl

theorem readSpans_withOperandsOf (i : Instr) (s : State) :
    readSpans i (r.withOperandsOf s) = readSpans i s := by
  cases i <;> rfl

theorem operandsWritten_withOperandsOf (hr : SameReads i s r.mem) :
    operandsWritten i (r.withOperandsOf s) ↔ operandsWritten i s := by
  unfold operandsWritten
  rw [readSpans_withOperandsOf]
  refine forall₂_congr fun iv hiv => forall₂_congr fun k hk => ?_
  change (r.mem.readWord (iv.start + k)).isSome ↔ _
  rw [hr iv hiv k hk]

/-- The engine's results do not depend on the memory they are written to. -/
theorem readWord_engineWrite_withOperandsOf (s : State) (a : Nat) {vs : List F64} {n : Nat}
    (hlen : vs.length = n) (k : Nat) (hk : k < n) :
    ((r.withOperandsOf s).engineWrite a vs).mem.readWord (a + k)
      = (s.engineWrite a vs).mem.readWord (a + k) := by
  rw [engineWrite_readWord _ _ _ (hlen ▸ hk), engineWrite_readWord _ _ _ (hlen ▸ hk)]
  rfl

/-- Phase 3 reads the same operands from `r`'s memory, and so has the same results there. -/
theorem Phase3.withOperandsOf (hu : Phase3 s i u) (hr : SameReads i s r.mem) :
    ∃ u', Phase3 (r.withOperandsOf s) i u' ∧ SameResults i s u u' := by
  cases hu with
  | nop => exact ⟨_, .nop, nofun, rfl, nofun⟩
  | plan => exact ⟨_, .plan, nofun, rfl, nofun⟩
  | winGen =>
    exact ⟨_, .winGen, readWord_engineWrite_withOperandsOf r s _ (length_window ..), rfl, nofun⟩
  | melBuild =>
    exact ⟨_, .melBuild, readWord_engineWrite_withOperandsOf r s _ (length_melMatrix _), rfl,
      nofun⟩
  | fftFwd p x hp hx =>
    have hx' : cRead r.mem s.snap.fftSrc.toNat p.pn = some x :=
      (cRead_congr (planLen_of_plan hp ▸ hr _ (.head _))).trans hx
    exact ⟨_, .fftFwd p x hp hx', readWord_engineWrite_withOperandsOf r s _
      (by simp [writeSpan, planLen_of_plan hp]), rfl, nofun⟩
  | fftReal p x hp hx =>
    have hx' : memRead r.mem s.snap.fftSrc.toNat p.pn = some x :=
      (memRead_congr (planLen_of_plan hp ▸ hr _ (.head _))).trans hx
    exact ⟨_, .fftReal p x hp hx', readWord_engineWrite_withOperandsOf r s _
      (by simp [writeSpan, planLen_of_plan hp]), rfl, nofun⟩
  | fftInv p x hp hx =>
    have hx' : cRead r.mem s.snap.fftSrc.toNat p.pn = some x :=
      (cRead_congr (planLen_of_plan hp ▸ hr _ (.head _))).trans hx
    exact ⟨_, .fftInv p x hp hx', readWord_engineWrite_withOperandsOf r s _
      (by simp [writeSpan, planLen_of_plan hp]), rfl, nofun⟩
  | spectrogram p x win mel hp hx hw hm =>
    have hx' : memRead r.mem (sgOps s.snap).wa (sgOps s.snap).len = some x :=
      (memRead_congr (hr _ (.head _))).trans hx
    have hw' : memRead r.mem (sgOps s.snap).wina (sgOps s.snap).fl = some win :=
      (memRead_congr (hr _ (.tail _ (.head _)))).trans hw
    have hm' : sgReadMel r.mem (sgOps s.snap) = some mel := (sgReadMel_congr hr).trans hm
    exact ⟨_, .spectrogram p x win mel hp hx' hw' hm',
      readWord_engineWrite_withOperandsOf r s _ (length_spectrogramWords ..), rfl,
      fun _ => ⟨rfl, rfl, rfl⟩⟩

end

/-- Settles O44: the second state is itself with the operands of the first, so its checks, reads and
results are those of the first. -/
theorem outcomeIsAFunctionOfWhatTheCommandReads :
    Obligations.OutcomeIsAFunctionOfWhatTheCommandReads := by
  intro i s s' hparams hsnap hplan hobuf hdraws hr
  have hs' : s' = s'.withOperandsOf s := by
    rw [State.withOperandsOf, ← hparams, ← hsnap, ← hplan, ← hobuf, ← hdraws]
  have herr : commandError i s' = commandError i s := by
    rw [hs', commandError_withOperandsOf]
  have hwritten : operandsWritten i s' ↔ operandsWritten i s := by
    rw [hs']
    exact operandsWritten_withOperandsOf s' hr
  refine ⟨herr, ?_, fun t t' ht ht' hce => ?_⟩
  · rw [commandFaultsExactlyOnUnwrittenOperands, commandFaultsExactlyOnUnwrittenOperands, herr,
      hwritten]
  · rcases exec_cases i s with ⟨e, he, -⟩ | ⟨-, u, hu, hx⟩ | ⟨-, hx⟩
    · exact absurd (hce.symm.trans he) nofun
    · obtain ⟨u', hu', hres⟩ := hu.withOperandsOf s' hr
      rw [← hs'] at hu'
      rw [hx] at ht
      rw [exec_of_phase3 (herr.trans hce) hu'] at ht'
      cases ht
      cases ht'
      exact ⟨hres.words, hres.plan, hres.shape⟩
    · exact absurd (hx.symm.trans ht) nofun

end Sys2Proof.Machine

/-! SUPPORT. The buffer checks as words (R90, R91), little-endian words (R82), and the host's accesses to
the block: the DMEM window, bus errors and the held access (R80, R84 to R88). -/

namespace Sys2Proof.Machine

variable {s : State}

/-! ## Buffer checks (R90, R91) -/

theorem outOfRange_iff_exists_word {p : Params} {iv : Interval} :
    outOfRange p iv = true ↔
      ∃ w, iv.start ≤ w ∧ w < iv.start + iv.len ∧ dmemWords p ≤ w := by
  rw [outOfRange_iff]
  refine ⟨fun ⟨hne, hend⟩ => ⟨iv.start + iv.len - 1, ?_⟩, fun ⟨w, hlo, hhi, hout⟩ => ?_⟩
  · omega
  · omega

theorem overlaps_iff_exists_word {iv jv : Interval} :
    overlaps iv jv = true ↔
      ∃ w, (iv.start ≤ w ∧ w < iv.start + iv.len) ∧ (jv.start ≤ w ∧ w < jv.start + jv.len) := by
  rw [overlaps_iff]
  refine ⟨fun h => ⟨max iv.start jv.start, ?_⟩, fun ⟨w, hi, hj⟩ => ?_⟩
  · omega
  · omega

/-- Settles O26: the last word of an interval is the one beyond DMEM, and the later start is shared. -/
theorem bufferChecksAreAboutWords : Obligations.BufferChecksAreAboutWords :=
  ⟨fun _ _ => outOfRange_iff_exists_word, fun _ _ => overlaps_iff_exists_word⟩

/-! ## Byte lanes (R82) -/

theorem readByte_writeWord_lane (m : Memory) (w : Nat) (v : Word) {k : Nat} (hk : k < 8) :
    (m.writeWord w v).readByte (byteAddr w k) = some (wordByte v k) := by
  have hlane : byteAddr w 0 ≤ byteAddr w k ∧ byteAddr w k < byteAddr w 8 := by
    simp only [byteAddr]
    omega
  rw [Memory.readByte_writeWord, if_pos hlane, Memory.byteAddr_add w k, Nat.add_sub_cancel_left,
    getElem?_wordBytes v hk]

/-- Settles O27: the byte lane at each of the word's eight addresses, and the word they make up. -/
theorem wordsAreLittleEndian : Obligations.WordsAreLittleEndian :=
  fun m w v _ hk => ⟨readByte_writeWord_lane m w v hk, Memory.readWord_writeWord_same m w v⟩

/-! ## The DMEM window (R80, R86, R87) -/

theorem windowWord_byteAddr (w : Nat) : windowWord (byteAddr w 0) = w := by
  simp only [windowWord, byteAddr]
  omega

theorem not_inRegBlock_of_inDmemWindow {p : Params} {a : Nat} (h : inDmemWindow p a = true) :
    inRegBlock a = false :=
  Bool.eq_false_iff.2 fun hreg =>
    absurd (h.symm.trans (not_inDmemWindow_of_inRegBlock hreg)) nofun

/-- An aligned 64-bit access to a word of DMEM reaches DMEM. -/
theorem busAccess_byteAddr {w : Nat} (hw : w < dmemWords s.params) (kind : BusKind) :
    busAccess ⟨byteAddr w 0, 8, kind⟩ s = dmemAccess ⟨byteAddr w 0, 8, kind⟩ s := by
  have hwin : inDmemWindow s.params (byteAddr w 0) = true := by
    rw [inDmemWindow_iff]
    simp only [byteAddr, dmemBase]
    omega
  simp only [busAccess, not_inRegBlock_of_inDmemWindow hwin, hwin, if_true, Bool.false_eq_true,
    if_false]

theorem wholeWord_byteAddr (w : Nat) (kind : BusKind) :
    wholeWord ⟨byteAddr w 0, 8, kind⟩ = true := by
  have halign : byteAddr w 0 % 8 = 0 := by
    simp only [byteAddr, dmemBase]
    omega
  exact wholeWord_iff.2 ⟨rfl, halign⟩

theorem busAccess_dmemWrite {w : Nat} (hw : w < dmemWords s.params) (v : Word) :
    busAccess ⟨byteAddr w 0, 8, .write v⟩ s
      = .next { s with mem := s.mem.writeWord w v, resp := some .writeOk } := by
  rw [busAccess_byteAddr hw, dmemAccess, if_pos (wholeWord_byteAddr w _), windowWord_byteAddr]
  rfl

theorem busAccess_dmemRead {w : Nat} (hw : w < dmemWords s.params) {v : Word}
    (hv : s.mem.readWord w = some v) :
    busAccess ⟨byteAddr w 0, 8, .read⟩ s = .next { s with resp := some (.readData v) } := by
  rw [busAccess_byteAddr hw, dmemAccess, if_pos (wholeWord_byteAddr w _), windowWord_byteAddr, hv]
  rfl

/-- Settles O28: the host's write is one `writeWord`, and its read one `readWord`. -/
theorem hostDmemWriteIsReadBack : Obligations.HostDmemWriteIsReadBack := by
  intro s w v hw
  refine ⟨_, busAccess_dmemWrite hw v, rfl, busAccess_dmemRead ?_ ?_, fun w' hne => ?_⟩
  · exact hw
  · exact Memory.readWord_writeWord_same s.mem w v
  · exact Memory.readWord_writeWord_other s.mem v hne

/-! ## Bus errors and unnamed offsets (R84, R85) -/

/-- A bad width or alignment is a bus error in either region, and so outside them. -/
theorem busAccess_of_not_wholeWord {a : BusTxn} (h : wholeWord a = false) :
    busAccess a s = .next (s.respond .busError) := by
  simp only [busAccess, regAccess, dmemAccess, h, Bool.false_eq_true, if_false]
  split
  · rfl
  · split <;> rfl

theorem busAccess_of_outside {a : BusTxn} (hreg : inRegBlock a.addr = false)
    (hwin : inDmemWindow s.params a.addr = false) :
    busAccess a s = .next (s.respond .busError) := by
  simp only [busAccess, hreg, hwin, Bool.false_eq_true, if_false]

theorem inRegBlock_iff {a : Nat} : inRegBlock a = true ↔ a ≤ 0xFFF := by
  rw [inRegBlock, decide_eq_true_eq]

theorem busAccess_bad {a : BusTxn}
    (h : a.size ≠ 8 ∨ a.addr % 8 ≠ 0 ∨ (0xFFF < a.addr ∧
      (a.addr < 0x00100000 ∨ 0x00100000 + 8 * dmemWords s.params ≤ a.addr))) :
    busAccess a s = .next (s.respond .busError) := by
  cases hw : wholeWord a with
  | false => exact busAccess_of_not_wholeWord hw
  | true =>
    obtain ⟨hsize, halign⟩ := wholeWord_iff.1 hw
    refine busAccess_of_outside (Bool.eq_false_iff.2 fun hreg => ?_)
      (Bool.eq_false_iff.2 fun hwin => ?_)
    · rw [inRegBlock_iff] at hreg
      omega
    · rw [inDmemWindow_iff] at hwin
      omega

theorem regAt_eq_none {a : Nat} (h : ∀ r, regOffset r ≠ a) : regAt a = none := by
  cases hr : regAt a with
  | none => rfl
  | some r => exact absurd (regAt_eq_some hr).symm (h r)

/-- The answer where no register is: 0 to a read, OK to a write (R85). -/
def blankAnswer : BusKind → BusResp
  | .read => .readData 0
  | .write _ => .writeOk

theorem busAccess_unnamed {a : BusTxn} (hw : wholeWord a = true) (hreg : inRegBlock a.addr = true)
    (hr : regAt a.addr = none) :
    busAccess a s = .next (s.respond (blankAnswer a.kind)) := by
  rw [busAccess, if_pos hreg, regAccess, if_pos hw, hr]
  cases a.kind <;> rfl

/-- Settles O29: by what the address decodes to, and R32's table at an unnamed offset. -/
theorem badHostAccessIsABusError : Obligations.BadHostAccessIsABusError := by
  intro s a
  refine ⟨busAccess_bad, fun hsize halign hlow hnone => ?_⟩
  rw [busAccess_unnamed (wholeWord_iff.2 ⟨hsize, halign⟩) (inRegBlock_iff.2 hlow)
    (regAt_eq_none hnone)]
  exact ⟨fun hk => hk ▸ rfl, fun w hk => hk ▸ rfl⟩

/-! ## The held access (R88, R92) -/

/-- While an access is held the host has nothing served but a change of `rst_n`. -/
theorem hostMoves_of_held {a : BusTxn} (hheld : s.held = some a)
    (hops : ∀ level rest, s.host ≠ .rstN level :: rest) : hostMoves s = false := by
  cases hh : s.host with
  | nil => simp only [hostMoves, hheld, hh]
  | cons op rest =>
    cases op with
    | rstN level => exact absurd hh (hops level rest)
    | bus | rmw | wait => simp only [hostMoves, hheld, hh]

theorem turn_host_of_idle (hb : s.status.busy = false) : turn s = .host := by
  simp only [turn, hb, Bool.and_false, Bool.false_and, Bool.false_eq_true, if_false]

theorem hostStep_busy (hrst : s.rstN = true) (hb : s.status.busy = true) {op : HostOp}
    {rest : List HostOp} (hops : s.host = op :: rest) :
    hostStep s = serve op { s with host := rest, latency := s.latency - 1 } := by
  simp only [hostStep, hrst, hb, hops]

theorem hostStep_held (hrst : s.rstN = true) (hb : s.status.busy = false) {a : BusTxn}
    (hheld : s.held = some a) : hostStep s = busAccess a { s with held := none } := by
  simp only [hostStep, hrst, hb, hheld]

theorem busIssue_held (hb : s.status.busy = true) {a : BusTxn}
    (hwin : inDmemWindow s.params a.addr = true) :
    busIssue a s = .next { s with held := some a } := by
  rw [busIssue, hb, hwin]
  rfl

/-- Settles O30: the host's turn holds the access, leaves the engine the next turns, and performs it
when BUSY is 0. -/
theorem dmemAccessIsHeldWhileBusy : Obligations.DmemAccessIsHeldWhileBusy := by
  refine ⟨fun s a rest hturn hrst hb hops hwin => ⟨s.latency - 1, ?_⟩,
    fun s a hrst hb hheld hops => ?_, fun s a hrst hb hheld => ?_⟩
  · rw [step_host hturn, hostStep_busy hrst hb hops]
    exact busIssue_held (s := { s with host := rest, latency := s.latency - 1 }) hb hwin
  · exact turn_engine_iff.2 ⟨hrst, hb, .inr (hostMoves_of_held hheld hops)⟩
  · rw [step_host (turn_host_of_idle hb), hostStep_held hrst hb hheld]

end Sys2Proof.Machine

/-! SUPPORT. The command words (R112), and what a step does with one: acceptance, rejection, the run of the
decoded command and the failure of an illegal word (R111, R114 to R117). -/

namespace Sys2Proof.Machine

variable {s u : State} {i : Instr}

/-! ## Words and commands (R112) -/

theorem encode_of_decode {w : Word} (h : decode w = .ok i) : encode i = w := by
  unfold decode at h
  split at h
  · next hrsvd =>
    split at h
    · next j hj =>
      cases h
      rw [encode, opcodeOf_of_instrOfOpcode hj, ← eq_of_beq hrsvd, rawCmd_append]
    · cases h
  · cases h

theorem decode_eq_ok_iff {w : Word} : decode w = .ok i ↔ w = encode i :=
  ⟨fun h => (encode_of_decode h).symm, fun h => h ▸ decode_encode i⟩

/-- The decoder takes the eight bytes of a word off the front and leaves the rest (R82, R118). -/
theorem decodeBytes_wordBytes_append (w : Word) (rest : List Byte) :
    decodeBytes (wordBytes w ++ rest) = (decode w).map (·, rest) := by
  have htake : (wordBytes w ++ rest).take 8 = wordBytes w := List.take_left' (length_wordBytes w)
  have hdrop : (wordBytes w ++ rest).drop 8 = rest := List.drop_left' (length_wordBytes w)
  have hlen : ¬ (wordBytes w ++ rest).length < 8 := by
    rw [List.length_append, length_wordBytes]
    omega
  rw [decodeBytes, if_neg hlen, htake, hdrop, wordOfBytes_wordBytes]
  cases decode w <;> rfl

/-- Settles O1: a word is its two fields, and its bytes put together are the word. -/
theorem decodeIsTheInverseOfEncode : Obligations.DecodeIsTheInverseOfEncode := by
  refine ⟨fun w i => decode_eq_ok_iff, fun i rest => ?_, rfl, rfl, rfl, rfl, rfl, rfl, rfl, rfl⟩
  rw [decodeBytes_wordBytes_append, decode_encode]
  rfl

theorem decode_of_reserved {w : Word} (h : (rawCmd w).rsvdZero = false) :
    decode w = .error .reservedBits := by
  rw [decode, h]
  rfl

theorem decode_of_unlisted {w : Word} (h : (rawCmd w).rsvdZero = true)
    (hop : instrOfOpcode (rawCmd w).opcode = none) :
    decode w = .error (.unknownOpcode (rawCmd w).opcode) := by
  rw [decode, if_pos h, hop]

/-- Settles O2: five words of R112's map, and three that miss one check of format C. -/
theorem sampleWordsDecode : Obligations.SampleWordsDecode :=
  ⟨decode_encode .nop, decode_encode .fftReal, decode_encode .winGen, decode_encode .melBuild,
    decode_encode .spectrogram, decode_of_reserved rfl, decode_of_reserved rfl,
    decode_of_unlisted rfl rfl⟩

/-! ## Illegal words (R111, R114) -/

theorem opcodeOf_mem_opcodeMap (i : Instr) :
    opcodeOf i ∈ ([0x00, 0x01, 0x10, 0x11, 0x12, 0x20, 0x30, 0x40] : List (BitVec 8)) := by
  cases i <;> decide

theorem rsvd_encode (i : Instr) : (encode i).extractLsb' 8 56 = 0 :=
  congrArg RawCmd.rsvd (rawCmd_encode i)

theorem exists_illegal_of_malformed {w : Word}
    (h : w.extractLsb' 8 56 ≠ 0 ∨ w.extractLsb' 0 8 ∉
      ([0x00, 0x01, 0x10, 0x11, 0x12, 0x20, 0x30, 0x40] : List (BitVec 8))) :
    ∃ e, decode w = .error e := by
  cases hd : decode w with
  | error e => exact ⟨e, rfl⟩
  | ok i =>
    obtain rfl := decode_eq_ok_iff.1 hd
    rcases h with hrsvd | hop
    · exact absurd (rsvd_encode i) hrsvd
    · exact absurd (opcode_encode i ▸ opcodeOf_mem_opcodeMap i) hop

theorem failedWith_fail (s : State) (e : Err) : FailedWith s (s.fail e) (errNumber e) := by
  obtain ⟨hhost, hplan, hshape⟩ := fail_kept s e
  exact ⟨⟨rfl, rfl⟩, rfl, rfl, rfl, rfl, fun _ => rfl, hplan, hshape, hhost⟩

/-- Settles O3: only a word of the map decodes, and the engine fails every other one. -/
theorem illegalWordFailsAndDoesNothingElse : Obligations.IllegalWordFailsAndDoesNothingElse := by
  intro s hturn hbad
  obtain ⟨e, he⟩ := exists_illegal_of_malformed hbad
  exact ⟨_, (step_engine hturn).trans (engineStep_illegal he), failedWith_fail s .illegalCmd⟩

/-! ## The run of the accepted command (R116, R117) -/

theorem step_of_decode (hturn : turn s = .engine) (h : decode s.cmd = .ok i) :
    step s = exec i s :=
  (step_engine hturn).trans (engineStep_ok h)

theorem withFetchWord_toNat (s : State) (w : Word) :
    s.withFetchWord 64 w.toNat = s.acceptNow w := by
  rw [State.withFetchWord, Nat.mod_eq_of_lt w.isLt, BitVec.ofNat_toNat, BitVec.setWidth_eq]

/-- Settles O4: the engine decodes the accepted word, and `encode i` is one that decodes to `i`. -/
theorem stepRunsTheDecodedCommand : Obligations.StepRunsTheDecodedCommand := by
  refine ⟨fun s i => step_of_decode, fun s i => ?_⟩
  rw [withFetchWord_toNat]
  exact step_of_decode (turn_acceptNow _) (decode_encode i)

theorem Phase3.succeeded (h : Phase3 s i u) : Succeeded s u.complete := by
  obtain ⟨-, -, -, hcode, -, -, -, -, -, -, herr, hover⟩ := h.keeps
  exact ⟨⟨rfl, rfl⟩, herr, hover, hcode⟩

/-- Settles O18: with its operands written a command reaches phase 3, and completes. -/
theorem everyCommandCompletesOnWrittenOperands :
    Obligations.EveryCommandCompletesOnWrittenOperands := by
  intro i s hce hw
  obtain ⟨u, hu⟩ := exists_phase3 hce hw
  exact ⟨_, exec_of_phase3 hce hu, hu.succeeded⟩

/-! ## The write of CMD (R115, R116) -/

theorem serve_regWrite (r : Reg) (w : Word) (s : State) :
    serve (regWrite r w) s = .next ((writeReg r w s).respond .writeOk) := by
  rw [regWrite, serve, busIssue, not_inDmemWindow_of_inRegBlock (inRegBlock_regOffset r),
    Bool.and_false]
  exact busAccess_regWrite r w s

/-- A host write of a register is performed at once, whether or not a command runs (R88). -/
theorem hostStep_regWrite (hrst : s.rstN = true) (hfree : s.status.busy = true ∨ s.held = none)
    {r : Reg} {w : Word} {rest : List HostOp} (hops : s.host = regWrite r w :: rest) :
    hostStep s =
      .next ((writeReg r w { s with host := rest, latency := s.latency - 1 }).respond .writeOk) := by
  rw [← serve_regWrite]
  cases hb : s.status.busy with
  | true => exact hostStep_busy hrst hb hops
  | false => simp only [hostStep, hrst, hb, hfree.resolve_left (Bool.eq_false_iff.1 hb), hops]

/-- Settles O5: the idle host's turn serves the write, and `writeCmd` accepts it. -/
theorem cmdWriteIsAcceptedWhenIdle : Obligations.CmdWriteIsAcceptedWhenIdle := by
  intro s w rest hrst hb hheld hops
  refine ⟨_, (step_host (turn_host_of_idle hb)).trans (hostStep_regWrite hrst (.inr hheld) hops), ?_⟩
  rw [writeReg, writeCmd_of_idle]
  · exact ⟨rfl, rfl, rfl, rfl, rfl, rfl, rfl, rfl, hrst, rfl, hheld, rfl,
      ⟨rfl, rfl, rfl, rfl, rfl, rfl⟩, ⟨rfl, rfl, rfl⟩⟩
  · exact hb

/-- Settles O6: the host's turn serves the write, and `writeCmd` rejects it. -/
theorem cmdWriteIsRejectedWhileBusy : Obligations.CmdWriteIsRejectedWhileBusy := by
  intro s w rest hturn hrst hb hops
  refine ⟨s.latency - 1, ?_⟩
  rw [step_host hturn, hostStep_regWrite hrst (.inl hb) hops, writeReg, writeCmd_of_busy]
  · rfl
  · exact hb

end Sys2Proof.Machine

/-! SUPPORT. The discrete Fourier transform in exact arithmetic (R20, R180): the roots of unity of both
directions, and the DFT as a sum over their powers. -/

namespace Sys2Proof.Machine

/-! ## Roots of unity -/

/-- exp(∓2πi/n): the root whose powers are the twiddles of a transform of length `n` (R161, R164). -/
noncomputable def unityRoot (dir : Dir) (n : Nat) : ℂ :=
  match dir with
  | .fwd => Complex.exp (-(2 * Real.pi * Complex.I / n))
  | .inv => Complex.exp (2 * Real.pi * Complex.I / n)

theorem unityRoot_fwd_eq_inv (n : Nat) : unityRoot .fwd n = (unityRoot .inv n)⁻¹ :=
  Complex.exp_neg _

theorem isPrimitiveRoot_unityRoot (dir : Dir) {n : Nat} (hn : n ≠ 0) :
    IsPrimitiveRoot (unityRoot dir n) n := by
  cases dir with
  | inv => exact Complex.isPrimitiveRoot_exp n hn
  | fwd => exact unityRoot_fwd_eq_inv n ▸ (Complex.isPrimitiveRoot_exp n hn).inv

theorem unityRoot_pow_self (dir : Dir) {n : Nat} (hn : n ≠ 0) : unityRoot dir n ^ n = 1 :=
  (isPrimitiveRoot_unityRoot dir hn).pow_eq_one

theorem unityRoot_fwd_mul_inv (n : Nat) : unityRoot .fwd n * unityRoot .inv n = 1 := by
  rw [unityRoot_fwd_eq_inv]
  exact inv_mul_cancel₀ (Complex.exp_ne_zero _)

theorem unityRoot_mul_pow (dir : Dir) (m : Nat) {l : Nat} (hl : l ≠ 0) :
    unityRoot dir (m * l) ^ l = unityRoot dir m := by
  have hcancel : (l : ℂ) * (2 * Real.pi * Complex.I / (m * l)) = 2 * Real.pi * Complex.I / m := by
    have hl' : (l : ℂ) ≠ 0 := Nat.cast_ne_zero.2 hl
    field_simp
  cases dir with
  | inv => simp only [unityRoot, ← Complex.exp_nat_mul, Nat.cast_mul, hcancel]
  | fwd => simp only [unityRoot, ← Complex.exp_nat_mul, Nat.cast_mul, mul_neg, hcancel]

theorem conj_unityRoot_fwd (n : Nat) : (starRingEnd ℂ) (unityRoot .fwd n) = unityRoot .inv n := by
  simp [unityRoot, ← Complex.exp_conj, Complex.conj_ofNat, neg_div]

theorem unityRoot_two (dir : Dir) : unityRoot dir 2 = -1 :=
  (isPrimitiveRoot_unityRoot dir two_ne_zero).eq_neg_one_of_two_right

theorem unityRoot_four_sq (dir : Dir) : unityRoot dir 4 ^ 2 = -1 :=
  (unityRoot_mul_pow dir 2 two_ne_zero).trans (unityRoot_two dir)

theorem unityRoot_inv_four : unityRoot .inv 4 = Complex.I := by
  refine Eq.trans (congrArg Complex.exp ?_) Complex.exp_pi_div_two_mul_I
  push_cast
  ring

theorem unityRoot_fwd_four : unityRoot .fwd 4 = -Complex.I := by
  rw [unityRoot_fwd_eq_inv, unityRoot_inv_four, Complex.inv_I]

/-! ## The DFT as a sum -/

/-- Bin `k` of the unscaled transform of length `n` of the sequence `f` (R20, R180). -/
noncomputable def dftSum (dir : Dir) (n : Nat) (f : Nat → ℂ) (k : Nat) : ℂ :=
  ∑ j ∈ Finset.range n, f j * unityRoot dir n ^ (j * k)

theorem exactTwiddle_eq_pow (n t : Nat) : exactTwiddle n t = unityRoot .fwd n ^ t := by
  rw [exactTwiddle, unityRoot, ← Complex.exp_nat_mul]
  congr 1
  ring

theorem exactDft_eq (n : Nat) (x : List ℂ) :
    exactDft n x = (List.range n).map (dftSum .fwd n (x.getD · 0)) := by
  simp only [exactDft, bind_pure_comp, List.map_eq_map, List.map_map]
  refine List.map_congr_left fun k _ => Finset.sum_congr rfl fun j _ => ?_
  rw [← exactTwiddle_eq_pow, exactTwiddle, Nat.cast_mul, ← mul_assoc]

theorem exactInvDft_eq (n : Nat) (x : List ℂ) :
    exactInvDft n x = (List.range n).map (dftSum .inv n (x.getD · 0) · / n) := by
  simp only [exactInvDft, bind_pure_comp, List.map_eq_map, List.map_map]
  refine List.map_congr_left fun k _ => congrArg (· / (n : ℂ)) (Finset.sum_congr rfl fun j _ => ?_)
  rw [unityRoot, ← Complex.exp_nat_mul]
  congr 2
  push_cast
  ring

theorem dftSum_congr {dir : Dir} {n : Nat} {f g : Nat → ℂ} (h : ∀ j < n, f j = g j) (k : Nat) :
    dftSum dir n f k = dftSum dir n g k :=
  Finset.sum_congr rfl fun j hj => by rw [h j (Finset.mem_range.1 hj)]

@[simp] theorem dftSum_one (dir : Dir) (f : Nat → ℂ) (k : Nat) : dftSum dir 1 f k = f 0 := by
  simp [dftSum]

theorem conj_dftSum_fwd (n : Nat) (f : Nat → ℂ) (k : Nat) :
    (starRingEnd ℂ) (dftSum .fwd n f k) = dftSum .inv n (fun j => (starRingEnd ℂ) (f j)) k := by
  simp [dftSum, conj_unityRoot_fwd]

/-- Bin n-k of one direction is bin k of the other. -/
theorem dftSum_inv_sub {n k : Nat} (hk : k < n) (f : Nat → ℂ) :
    dftSum .inv n f (n - k) = dftSum .fwd n f k := by
  have hn : n ≠ 0 := by omega
  have hinv : unityRoot .inv n ^ (n - k) = unityRoot .fwd n ^ k := by
    rw [pow_sub₀ _ ((isPrimitiveRoot_unityRoot .inv hn).ne_zero hn) hk.le,
      unityRoot_pow_self .inv hn, one_mul,
      ← inv_pow, unityRoot_fwd_eq_inv]
  refine Finset.sum_congr rfl fun j _ => ?_
  rw [Nat.mul_comm, pow_mul, hinv, ← pow_mul, Nat.mul_comm]

theorem sum_range_mul_eq (m l : Nat) (g : Nat → ℂ) :
    ∑ i ∈ Finset.range (m * l), g i
      = ∑ r ∈ Finset.range m, ∑ j ∈ Finset.range l, g (m * j + r) := by
  rw [Finset.sum_comm]
  induction l with
  | zero => simp
  | succ l ih => rw [Nat.mul_succ, Finset.sum_range_add, Finset.sum_range_succ, ih]

/-- The Cooley-Tukey step: bin `k + q * l` of a transform of length `m * l` from bin `k` of the `m`
transforms of length `l` of the residue classes mod `m`. -/
theorem dftSum_mul (dir : Dir) {m l : Nat} (hm : m ≠ 0) (hl : l ≠ 0) (f : Nat → ℂ) (k q : Nat) :
    dftSum dir (m * l) f (k + q * l) = ∑ r ∈ Finset.range m,
      unityRoot dir m ^ (r * q) *
        (dftSum dir l (fun j => f (m * j + r)) k * unityRoot dir (m * l) ^ (r * k)) := by
  set w := unityRoot dir (m * l) with hw
  have hwm : w ^ m = unityRoot dir l := by rw [hw, mul_comm, unityRoot_mul_pow dir l hm]
  have hwl : w ^ l = unityRoot dir m := unityRoot_mul_pow dir m hl
  have hwml : w ^ (m * l) = 1 := unityRoot_pow_self dir (Nat.mul_ne_zero hm hl)
  have hpow (r j : Nat) : w ^ ((m * j + r) * (k + q * l))
      = (w ^ m) ^ (j * k) * w ^ (r * k) * (w ^ l) ^ (r * q) * (w ^ (m * l)) ^ (j * q) := by
    simp only [← pow_mul, ← pow_add]
    congr 1
    ring
  rw [dftSum, sum_range_mul_eq]
  refine Finset.sum_congr rfl fun r _ => ?_
  rw [dftSum, Finset.sum_mul, Finset.mul_sum]
  refine Finset.sum_congr rfl fun j _ => ?_
  rw [hpow, hwm, hwl, hwml, one_pow]
  ring

/-- The powers of one root of unity sum to zero but for the exponent 0. -/
theorem sum_unityRoot_pow {n j t : Nat} (hj : j < n) (ht : t < n) :
    ∑ q ∈ Finset.range n, (unityRoot .fwd n ^ j * unityRoot .inv n ^ t) ^ q
      = if j = t then (n : ℂ) else 0 := by
  have hn : n ≠ 0 := by omega
  have hinv : unityRoot .fwd n ^ t * unityRoot .inv n ^ t = 1 := by
    rw [← mul_pow, unityRoot_fwd_mul_inv, one_pow]
  split
  · next h => simp [h, hinv]
  · next h =>
    have hne : unityRoot .fwd n ^ j * unityRoot .inv n ^ t ≠ 1 := fun heq => h <|
      (isPrimitiveRoot_unityRoot .fwd hn).pow_inj hj ht <|
        mul_right_cancel₀ (right_ne_zero_of_mul_eq_one hinv) (heq.trans hinv.symm)
    rw [geom_sum_eq hne, mul_pow, pow_right_comm, unityRoot_pow_self .fwd hn, pow_right_comm,
      unityRoot_pow_self .inv hn]
    simp

/-- The transforms of both directions undo each other but for the factor `n`. -/
theorem dftSum_inv_dftSum_fwd {n t : Nat} (ht : t < n) (f : Nat → ℂ) :
    dftSum .inv n (dftSum .fwd n f) t = n * f t := by
  calc dftSum .inv n (dftSum .fwd n f) t
      = ∑ j ∈ Finset.range n, f j *
          ∑ q ∈ Finset.range n, (unityRoot .fwd n ^ j * unityRoot .inv n ^ t) ^ q := by
        simp only [dftSum, Finset.sum_mul, Finset.mul_sum]
        rw [Finset.sum_comm]
        refine Finset.sum_congr rfl fun j _ => Finset.sum_congr rfl fun q _ => ?_
        ring
    _ = ∑ j ∈ Finset.range n, f j * if j = t then (n : ℂ) else 0 :=
        Finset.sum_congr rfl fun j hj => by rw [sum_unityRoot_pow (Finset.mem_range.1 hj) ht]
    _ = n * f t := by simp [ht, mul_comm]

end Sys2Proof.Machine

/-! SUPPORT. The bit reversal of R160. -/

namespace Sys2Proof.Machine

theorem revBits_lt (p i : Nat) : revBits p i < 2 ^ p := by
  induction p generalizing i with
  | zero => exact Nat.one_pos
  | succ p ih =>
    have hlow : i % 2 * 2 ^ p ≤ 1 * 2 ^ p := Nat.mul_le_mul_right _ (by omega)
    have hrest := ih (i / 2)
    rw [revBits, pow_succ]
    omega

theorem revBits_eq_sum (p i : Nat) :
    revBits p i = ∑ b ∈ Finset.range p, if i.testBit b then 2 ^ (p - 1 - b) else 0 := by
  induction p generalizing i with
  | zero => rfl
  | succ p ih =>
    have hlow : i % 2 * 2 ^ p = if i.testBit 0 then 2 ^ p else 0 := by
      rcases Nat.mod_two_eq_zero_or_one i with h | h <;> simp [h]
    rw [revBits, ih, Finset.sum_range_succ', hlow, add_comm]
    refine congrArg₂ _ (Finset.sum_congr rfl fun b _ => ?_) rfl
    rw [Nat.testBit_succ, Nat.add_sub_cancel, Nat.sub_sub, Nat.add_comm 1 b]

/-- The bit above `p` others becomes the lowest one. -/
theorem revBits_succ_two_pow_mul_add (p : Nat) {b i : Nat} (hb : b < 2) (hi : i < 2 ^ p) :
    revBits (p + 1) (b * 2 ^ p + i) = 2 * revBits p i + b := by
  induction p generalizing i with
  | zero =>
    obtain rfl : i = 0 := by omega
    simp [revBits, Nat.mod_eq_of_lt hb]
  | succ p ih =>
    have hshift : b * 2 ^ (p + 1) = 2 * (b * 2 ^ p) := by ring
    have hmod : (b * 2 ^ (p + 1) + i) % 2 = i % 2 := by omega
    have hdiv : (b * 2 ^ (p + 1) + i) / 2 = b * 2 ^ p + i / 2 := by omega
    rw [revBits, hmod, hdiv, ih (by rw [pow_succ] at hi; omega), revBits, pow_succ]
    ring

theorem revBits_revBits {p i : Nat} (hi : i < 2 ^ p) : revBits p (revBits p i) = i := by
  induction p generalizing i with
  | zero =>
    obtain rfl : i = 0 := by omega
    rfl
  | succ p ih =>
    have hhalf : i / 2 < 2 ^ p := by rw [pow_succ] at hi; omega
    have hi' : revBits (p + 1) i = i % 2 * 2 ^ p + revBits p (i / 2) := rfl
    rw [hi', revBits_succ_two_pow_mul_add p (Nat.mod_lt _ Nat.two_pos) (revBits_lt _ _),
      ih hhalf, Nat.div_add_mod]

/-- The table of R160 holds the reversed indices. -/
theorem getD_brevTable {p i : Nat} (hi : i < 2 ^ p) :
    (brevTable (2 ^ p)).getD i 0 = revBits p i := by
  simp [brevTable, List.getD, hi]

/-- Settles O54: the table entry is `revBits p i`, which is R160's sum and an involution. -/
theorem bitReversalTableIsR160 : Obligations.BitReversalTableIsR160 := by
  intro p i hi
  rw [getD_brevTable hi, getD_brevTable (revBits_lt p i)]
  exact ⟨revBits_eq_sum p i, revBits_lt p i, revBits_revBits hi⟩

end Sys2Proof.Machine

/-! SUPPORT. The stages of the power-of-two datapath work in place (R163 to R165): the butterflies of a stage
touch disjoint positions, so each position gets what its own butterfly makes of the stage's input. -/

namespace Sys2Proof.Machine

/-! ## Lists updated in place -/

section
variable {C : Type} {z v : C} {a a' : List C} {i p n : Nat}

theorem getD_set_self (h : p < a.length) : (a.set p v).getD p z = v := by
  simp [List.getD, h]

theorem getD_set_ne (h : p ≠ i) : (a.set p v).getD i z = a.getD i z := by
  simp [List.getD, List.getElem?_set_ne h]

theorem getD_set_congr (hlen : a.length = a'.length) (h : a.getD i z = a'.getD i z) :
    (a.set p v).getD i z = (a'.set p v).getD i z := by
  by_cases hpi : p = i
  · subst hpi
    by_cases hp : p < a.length
    · rw [getD_set_self hp, getD_set_self (hlen ▸ hp)]
    · rw [List.set_eq_of_length_le (by omega), List.set_eq_of_length_le (by omega), h]
  · rw [getD_set_ne hpi, getD_set_ne hpi, h]

theorem getD_map_range {f : Nat → C} (h : i < n) : ((List.range n).map f).getD i z = f i := by
  simp [List.getD, h]

theorem eq_map_range_of_getD {f : Nat → C} (hlen : a.length = n) (h : ∀ i < n, a.getD i z = f i) :
    a = (List.range n).map f := by
  refine List.ext_getElem (by simp [hlen]) fun i hi _ => ?_
  rw [← List.getD_eq_getElem a z hi, h i (hlen ▸ hi)]
  simp

end

/-- Steps 0, …, n-1 work on disjoint positions: step `k` reads and writes no position but those that
`owner` gives to it. -/
structure DisjointSteps {C : Type} (z : C) (n : Nat) (owner : Nat → Nat)
    (step : List C → Nat → List C) : Prop where
  length : ∀ a k, (step a k).length = a.length
  keeps : ∀ a, ∀ k < n, ∀ i, owner i ≠ k → (step a k).getD i z = a.getD i z
  congr : ∀ a a' : List C, a.length = a'.length → ∀ k < n,
    (∀ i, owner i = k → a.getD i z = a'.getD i z) →
    ∀ i, owner i = k → (step a k).getD i z = (step a' k).getD i z

/-- After disjoint steps a position holds what its owner's step alone makes of it. -/
theorem DisjointSteps.getD_foldl {C : Type} {z : C} {n : Nat} {owner : Nat → Nat}
    {step : List C → Nat → List C} (h : DisjointSteps z n owner step) (a : List C) (i : Nat) :
    ((List.range n).foldl step a).getD i z
      = if owner i < n then (step a (owner i)).getD i z else a.getD i z := by
  suffices hm : ∀ m ≤ n, ∀ i, ((List.range m).foldl step a).getD i z
      = if owner i < m then (step a (owner i)).getD i z else a.getD i z from hm n le_rfl i
  intro m hmn
  induction m with
  | zero => simp
  | succ m ih =>
    intro i
    rw [List.range_succ, List.foldl_append, List.foldl_cons, List.foldl_nil]
    rcases lt_trichotomy (owner i) m with hi | hi | hi
    · rw [h.keeps _ m hmn i hi.ne, ih (by omega), if_pos hi, if_pos (by omega)]
    · rw [h.congr _ a (foldl_length step h.length _ _) m hmn _ i hi, if_pos (by omega), hi]
      intro j hj
      rw [ih (by omega), if_neg (by omega)]
    · rw [h.keeps _ m hmn i hi.ne', ih (by omega), if_neg (by omega), if_neg (by omega)]

/-! ## The radix-2 stage (R163) -/

section
variable {R C : Type} (A : CArith R C)

theorem radix2Pair_disjoint (n : Nat) :
    DisjointSteps A.zero n (· / 2) (radix2Pair A) where
  length := length_radix2Pair A
  keeps a k _ i hi := by
    rw [radix2Pair, getD_set_ne (by omega), getD_set_ne (by omega)]
  congr a a' hlen k _ hown i hi := by
    have hu := hown (2 * k) (by omega)
    have hv := hown (2 * k + 1) (by omega)
    simp only [radix2Pair, hu, hv]
    exact getD_set_congr (by simp [hlen]) (getD_set_congr hlen (hown i hi))

theorem getD_radix2Stage {n i : Nat} (a : List C) (hi : i / 2 < n / 2) :
    (radix2Stage A a n).getD i A.zero = (radix2Pair A a (i / 2)).getD i A.zero := by
  rw [radix2Stage, (radix2Pair_disjoint A (n / 2)).getD_foldl, if_pos hi]

/-! ## The radix-4 stage (R164, R165) -/

variable (tw : List C) (dir : Dir) {l st b k : Nat}

theorem getD_butterfly_of_ne {i : Nat} (a : List C) (h : ∀ q < 4, b + q * l + k ≠ i) :
    (butterfly A tw dir l st b a k).getD i A.zero = a.getD i A.zero := by
  have h0 := h 0 (by omega)
  have h1 := h 1 (by omega)
  have h2 := h 2 (by omega)
  have h3 := h 3 (by omega)
  rw [Nat.zero_mul, Nat.add_zero] at h0
  rw [Nat.one_mul] at h1
  simp only [butterfly, getD_set_ne h0, getD_set_ne h1, getD_set_ne h2, getD_set_ne h3]

theorem getD_butterfly_congr {a a' : List C} (hlen : a.length = a'.length)
    (h : ∀ q < 4, a.getD (b + q * l + k) A.zero = a'.getD (b + q * l + k) A.zero) {i : Nat}
    (hi : a.getD i A.zero = a'.getD i A.zero) :
    (butterfly A tw dir l st b a k).getD i A.zero
      = (butterfly A tw dir l st b a' k).getD i A.zero := by
  have h0 := h 0 (by omega)
  have h1 := h 1 (by omega)
  have h2 := h 2 (by omega)
  have h3 := h 3 (by omega)
  rw [Nat.zero_mul, Nat.add_zero] at h0
  rw [Nat.one_mul] at h1
  simp only [butterfly, h0, h1, h2, h3]
  exact getD_set_congr (by simp [hlen]) (getD_set_congr (by simp [hlen])
    (getD_set_congr (by simp [hlen]) (getD_set_congr hlen hi)))

theorem quarter_mod (c q : Nat) (hk : k < l) : (c * (4 * l) + q * l + k) % l = k := by
  rw [show c * (4 * l) + q * l + k = k + l * (4 * c + q) by ring, Nat.add_mul_mod_self_left,
    Nat.mod_eq_of_lt hk]

theorem quarter_div (c : Nat) {q : Nat} (hq : q < 4) (hk : k < l) :
    (c * (4 * l) + q * l + k) / (4 * l) = c := by
  have hle : (q + 1) * l ≤ 4 * l := Nat.mul_le_mul_right l hq
  rw [Nat.add_mul, Nat.one_mul] at hle
  rw [Nat.add_assoc, Nat.add_comm, Nat.add_mul_div_right _ _ (by omega),
    Nat.div_eq_of_lt (by omega), Nat.zero_add]

theorem butterfly_disjoint (c : Nat) :
    DisjointSteps A.zero l (· % l) (butterfly A tw dir l st (c * (4 * l))) where
  length := length_butterfly A tw dir l st _
  keeps a _ hk _ hi :=
    getD_butterfly_of_ne A tw dir a fun q _ heq => hi (heq ▸ quarter_mod c q hk)
  congr _ _ hlen _ hk hown i hi :=
    getD_butterfly_congr A tw dir hlen (fun q _ => hown _ (quarter_mod c q hk)) (hown i hi)

theorem getD_radix4Group (hl : 0 < l) (a : List C) (c i : Nat) :
    (radix4Group A tw dir l st a c).getD i A.zero
      = (butterfly A tw dir l st (c * (4 * l)) a (i % l)).getD i A.zero := by
  rw [radix4Group, (butterfly_disjoint A tw dir c).getD_foldl, if_pos (Nat.mod_lt _ hl)]

theorem radix4Group_disjoint (hl : 0 < l) (n : Nat) :
    DisjointSteps A.zero n (· / (4 * l)) (radix4Group A tw dir l st) where
  length := length_radix4Group A tw dir l st
  keeps a c _ i hi := by
    rw [getD_radix4Group A tw dir hl]
    exact getD_butterfly_of_ne A tw dir a fun q hq heq =>
      hi (heq ▸ quarter_div c hq (Nat.mod_lt _ hl))
  congr a a' hlen c _ hown i hi := by
    rw [getD_radix4Group A tw dir hl, getD_radix4Group A tw dir hl]
    exact getD_butterfly_congr A tw dir hlen
      (fun q hq => hown _ (quarter_div c hq (Nat.mod_lt _ hl))) (hown i hi)

/-- After a radix-4 stage a position holds what its own butterfly makes of the stage's input. -/
theorem getD_radix4Stage {n c q : Nat} (a : List C) (hc : c < n / (4 * l)) (hq : q < 4)
    (hk : k < l) :
    (radix4Stage A tw dir n l a).getD (c * (4 * l) + q * l + k) A.zero
      = (butterfly A tw dir l (n / (4 * l)) (c * (4 * l)) a k).getD (c * (4 * l) + q * l + k)
          A.zero := by
  have hl : 0 < l := by omega
  rw [radix4Stage, (radix4Group_disjoint A tw dir hl _).getD_foldl, quarter_div c hq hk,
    if_pos hc, getD_radix4Group A tw dir hl, quarter_mod c q hk]

end

end Sys2Proof.Machine

/-! SUPPORT. The power-of-two datapath in exact arithmetic (R160 to R167, R180): after each stage the working
array holds the transforms of ever longer subsequences of the input. -/

namespace Sys2Proof.Machine

/-! ## One stage in exact arithmetic -/

theorem twAt_exactTw {n t : Nat} (dir : Dir) (ht : t < n) :
    twAt exactArith (exactTw n) dir t = unityRoot dir n ^ t := by
  have hget : (exactTw n).getD t exactArith.zero = unityRoot .fwd n ^ t := by
    rw [exactTw, getD_map_range ht, exactTwiddle_eq_pow]
  cases dir with
  | fwd => exact hget
  | inv =>
    rw [twAt, hget]
    exact (map_pow _ _ _).trans (congrArg (· ^ t) (conj_unityRoot_fwd n))

/-- The stride S makes the twiddles of length 4LS those of length 4L (R164). -/
theorem twAt_exactTw_stride {m t s : Nat} (dir : Dir) (hs : 0 < s) (ht : t < m) :
    twAt exactArith (exactTw (m * s)) dir (t * s) = unityRoot dir m ^ t := by
  rw [twAt_exactTw dir ((Nat.mul_lt_mul_right hs).2 ht), Nat.mul_comm t, pow_mul,
    unityRoot_mul_pow dir m hs.ne']

theorem getD_set_quarters {C : Type} {z v0 v1 v2 v3 : C} {a : List C} {l b k q : Nat} (hk : k < l)
    (hq : q < 4) (hlen : b + 4 * l ≤ a.length) :
    ((((a.set (b + k) v0).set (b + l + k) v1).set (b + 2 * l + k) v2).set (b + 3 * l + k) v3).getD
      (b + q * l + k) z = [v0, v1, v2, v3].getD q z := by
  interval_cases q
  · rw [Nat.zero_mul, Nat.add_zero, getD_set_ne (by omega), getD_set_ne (by omega),
      getD_set_ne (by omega), getD_set_self (by omega)]
    rfl
  · rw [Nat.one_mul, getD_set_ne (by omega), getD_set_ne (by omega),
      getD_set_self (by rw [List.length_set]; omega)]
    rfl
  · rw [getD_set_ne (by omega), getD_set_self (by rw [List.length_set, List.length_set]; omega)]
    rfl
  · rw [getD_set_self (by rw [List.length_set, List.length_set, List.length_set]; omega)]
    rfl

/-- The additions of a radix-4 butterfly are a transform of length 4: `w` is ∓i (R164). -/
theorem butterfly_sums_eq {w : ℂ} (hw : w ^ 2 = -1) (y0 z1 z2 z3 : ℂ) {q : Nat} (hq : q < 4) :
    [y0 + z2 + (z1 + z3), y0 - z2 + w * (z1 - z3), y0 + z2 - (z1 + z3),
        y0 - z2 - w * (z1 - z3)].getD q 0
      = ∑ r ∈ Finset.range 4, w ^ (r * q) * [y0, z1, z2, z3].getD r 0 := by
  have h3 : w ^ 3 = -w := by rw [pow_succ, hw, neg_one_mul]
  have h4 : w ^ 4 = 1 := by rw [pow_mul w 2 2, hw]; norm_num
  have h6 : w ^ 6 = -1 := by rw [pow_mul w 2 3, hw]; norm_num
  have h9 : w ^ 9 = w := by rw [pow_succ, pow_mul w 2 4, hw]; norm_num
  interval_cases q
  · simp [Finset.sum_range_succ]
    ring
  · simp [Finset.sum_range_succ, hw, h3]
    ring
  · simp [Finset.sum_range_succ, hw, h4, h6]
    ring
  · simp [Finset.sum_range_succ, h3, h6, h9]
    ring

/-- `rot_neg_i` is the product with the fourth root of unity of the forward direction, `rot_pos_i` with that
of the inverse one (R11, R164). -/
theorem exactArith_rotNegI (t : ℂ) : exactArith.rotNegI t = unityRoot .fwd 4 * t := by
  rw [unityRoot_fwd_four]
  rfl

theorem exactArith_rotPosI (t : ℂ) : exactArith.rotPosI t = unityRoot .inv 4 * t := by
  rw [unityRoot_inv_four]
  rfl

/-- The radix-4 butterfly is a transform of length 4 of its twiddled quarters, which lie in bit-reversed
order (R164). -/
theorem getD_butterfly_exact (dir : Dir) {l s b k q : Nat} {a : List ℂ} (hs : 0 < s) (hk : k < l)
    (hq : q < 4) (hlen : b + 4 * l ≤ a.length) :
    (butterfly exactArith (exactTw (4 * l * s)) dir l s b a k).getD (b + q * l + k) 0
      = ∑ r ∈ Finset.range 4, unityRoot dir 4 ^ (r * q) *
          (a.getD (b + revBits 2 r * l + k) 0 * unityRoot dir (4 * l) ^ (r * k)) := by
  have ht1 := twAt_exactTw_stride dir hs (m := 4 * l) (t := k) (by omega)
  have ht2 := twAt_exactTw_stride dir hs (m := 4 * l) (t := 2 * k) (by omega)
  have ht3 := twAt_exactTw_stride dir hs (m := 4 * l) (t := 3 * k) (by omega)
  have hsums := butterfly_sums_eq (unityRoot_four_sq dir) (a.getD (b + k) 0)
    (a.getD (b + 2 * l + k) 0 * unityRoot dir (4 * l) ^ k)
    (a.getD (b + l + k) 0 * unityRoot dir (4 * l) ^ (2 * k))
    (a.getD (b + 3 * l + k) 0 * unityRoot dir (4 * l) ^ (3 * k)) hq
  refine Eq.trans ?_ (hsums.trans (by simp [Finset.sum_range_succ, revBits]))
  simp only [butterfly, getD_set_quarters hk hq hlen, ht1, ht2, ht3]
  cases dir with
  | fwd => simp only [exactArith_rotNegI]; rfl
  | inv => simp only [exactArith_rotPosI]; rfl

/-! ## Blocks of transforms -/

/-- The working array, with `2 ^ d` blocks of length `l`: block `c` holds the transform of the elements of
`x` at the indices that are `revBits d c` mod `2 ^ d`. -/
def BlockDfts (dir : Dir) (x : Nat → ℂ) (d l : Nat) (a : List ℂ) : Prop :=
  ∀ c < 2 ^ d, ∀ k < l,
    a.getD (c * l + k) 0 = dftSum dir l (fun j => x (revBits d c + 2 ^ d * j)) k

theorem revBits_two_pow_mul_add (d e c : Nat) {i : Nat} (hi : i < 2 ^ e) :
    revBits (d + e) (2 ^ e * c + i) = revBits d c + 2 ^ d * revBits e i := by
  induction e generalizing i with
  | zero =>
    obtain rfl : i = 0 := by omega
    simp [revBits]
  | succ e ih =>
    have hshift : 2 ^ (e + 1) * c = 2 * (2 ^ e * c) := by ring
    have hmod : (2 ^ (e + 1) * c + i) % 2 = i % 2 := by omega
    have hdiv : (2 ^ (e + 1) * c + i) / 2 = 2 ^ e * c + i / 2 := by omega
    rw [← Nat.add_assoc, revBits, hmod, hdiv, ih (by rw [pow_succ] at hi; omega), revBits]
    ring

/-- A stage that makes each block from `m = 2 ^ e` old ones, by the Cooley-Tukey step, leaves blocks of
transforms. -/
theorem blockDfts_of_combine {dir : Dir} {x : Nat → ℂ} {d e l m : Nat} {a a' : List ℂ}
    (hm : m = 2 ^ e) (h : BlockDfts dir x (d + e) l a)
    (hstep : ∀ c < 2 ^ d, ∀ q < m, ∀ k < l, a'.getD (c * (m * l) + q * l + k) 0
      = ∑ r ∈ Finset.range m, unityRoot dir m ^ (r * q) *
          (a.getD (c * (m * l) + revBits e r * l + k) 0 * unityRoot dir (m * l) ^ (r * k))) :
    BlockDfts dir x d (m * l) a' := by
  subst hm
  intro c hc k' hk'
  have hl : 0 < l := Nat.pos_of_ne_zero fun h0 => by simp [h0] at hk'
  obtain ⟨q, k, hk, rfl⟩ : ∃ q k, k < l ∧ k' = k + q * l :=
    ⟨k' / l, k' % l, Nat.mod_lt _ hl, (Nat.mod_add_div' k' l).symm⟩
  have hq : q < 2 ^ e := Nat.lt_of_mul_lt_mul_right (a := l) (by omega)
  rw [Nat.add_comm k, ← Nat.add_assoc, hstep c hc q hq k hk, Nat.add_comm _ k,
    dftSum_mul dir (by positivity) hl.ne']
  refine Finset.sum_congr rfl fun r hr => ?_
  have hr' : r < 2 ^ e := Finset.mem_range.1 hr
  have hblock : 2 ^ e * c + revBits e r < 2 ^ (d + e) := by
    rw [pow_add, Nat.mul_comm (2 ^ d)]
    calc 2 ^ e * c + revBits e r < 2 ^ e * (c + 1) := Nat.add_lt_add_left (revBits_lt e r) _
      _ ≤ 2 ^ e * 2 ^ d := Nat.mul_le_mul_left _ hc
  have hpos : c * (2 ^ e * l) + revBits e r * l = (2 ^ e * c + revBits e r) * l := by ring
  rw [hpos, h _ hblock k hk, revBits_two_pow_mul_add d e c (revBits_lt e r), revBits_revBits hr']
  congr 2
  refine dftSum_congr (fun j _ => congrArg x ?_) k
  ring

/-! ## The stages -/

variable {dir : Dir} {d f l n : Nat} {a : List ℂ}

/-- The bit-reversed load leaves blocks of length 1 (R162). -/
theorem blockDfts_brevLoad (dir : Dir) (x : List ℂ) (p : Nat) :
    BlockDfts dir (x.getD · 0) p 1 (brevLoad exactArith (brevTable (2 ^ p)) x (2 ^ p)) := by
  intro c hc k hk
  obtain rfl : k = 0 := by omega
  rw [Nat.mul_one, Nat.add_zero, brevLoad, getD_map_range hc, getD_brevTable hc, dftSum_one,
    Nat.mul_zero, Nat.add_zero]
  rfl

theorem blockDfts_radix2Stage {x : Nat → ℂ} (h : BlockDfts dir x (d + 1) 1 a)
    (hlen : a.length = 2 ^ (d + 1)) :
    BlockDfts dir x d 2 (radix2Stage exactArith a (2 ^ (d + 1))) := by
  refine blockDfts_of_combine (e := 1) rfl h fun c hc q hq k hk => ?_
  obtain rfl : k = 0 := by omega
  have hhalf : 2 ^ (d + 1) / 2 = 2 ^ d := by rw [pow_succ, Nat.mul_div_cancel _ Nat.two_pos]
  have hdiv : (c * (2 * 1) + q * 1 + 0) / 2 = c := by omega
  have hget := getD_radix2Stage exactArith a (i := c * (2 * 1) + q * 1 + 0) (n := 2 ^ (d + 1))
    (by rw [hdiv, hhalf]; exact hc)
  refine hget.trans ?_
  rw [hdiv, radix2Pair]
  interval_cases q
  · rw [show c * (2 * 1) + 0 * 1 + 0 = 2 * c by omega, getD_set_ne (by omega),
      getD_set_self (by rw [hlen, pow_succ]; omega)]
    simp [Finset.sum_range_succ, revBits, exactArith, Nat.mul_comm c]
  · rw [show c * (2 * 1) + 1 * 1 + 0 = 2 * c + 1 by omega,
      getD_set_self (by rw [List.length_set, hlen, pow_succ]; omega)]
    simp [Finset.sum_range_succ, revBits, exactArith, Nat.mul_comm c, unityRoot_two,
      sub_eq_add_neg]

theorem blockDfts_radix4Stage {x : Nat → ℂ} (h : BlockDfts dir x (d + 2) l a)
    (hn : n = 4 * l * 2 ^ d) (hlen : a.length = n) :
    BlockDfts dir x d (4 * l) (radix4Stage exactArith (exactTw n) dir n l a) := by
  refine blockDfts_of_combine (e := 2) rfl h fun c hc q hq k hk => ?_
  have hgroups : n / (4 * l) = 2 ^ d := by rw [hn, Nat.mul_div_cancel_left _ (by omega)]
  have hget := getD_radix4Stage exactArith (exactTw n) dir a (hgroups.symm ▸ hc) hq hk
  have hend : c * (4 * l) + 4 * l ≤ a.length := by
    rw [hlen, hn, Nat.mul_comm _ (2 ^ d), ← Nat.succ_mul]
    exact Nat.mul_le_mul_right _ hc
  refine hget.trans ?_
  rw [hgroups, hn]
  exact getD_butterfly_exact dir (by positivity) hk hq hend

/-- While blocks are left to combine, each pass of the loop makes one of four (R165). -/
theorem blockDfts_radix4Loop {x : Nat → ℂ} {fuel : Nat} (hf : f ≤ fuel)
    (hn : n = 2 ^ (2 * f) * l) (hl : 0 < l) (hlen : a.length = n) (h : BlockDfts dir x (2 * f) l a) :
    BlockDfts dir x 0 n (radix4Loop exactArith (exactTw n) dir n fuel l a) := by
  induction f generalizing fuel l a with
  | zero =>
    obtain rfl : n = l := by simpa using hn
    cases fuel with
    | zero => exact h
    | succ fuel => rwa [radix4Loop, if_neg (lt_irrefl n)]
  | succ f ih =>
    obtain ⟨fuel, rfl⟩ : ∃ fuel', fuel = fuel' + 1 := ⟨fuel - 1, by omega⟩
    have hn' : n = 2 ^ (2 * f) * (4 * l) := by rw [hn, Nat.mul_succ, pow_add, Nat.mul_assoc]; rfl
    have hlt : l < n := by
      have hle : 1 * (4 * l) ≤ 2 ^ (2 * f) * (4 * l) := Nat.mul_le_mul_right _ Nat.one_le_two_pow
      omega
    rw [radix4Loop, if_pos hlt]
    exact ih (by omega) hn' (by omega) (by rwa [length_radix4Stage])
      (blockDfts_radix4Stage h (hn'.trans (Nat.mul_comm ..)) hlen)

/-- The power-of-two datapath computes the unscaled transform of its direction. -/
theorem fftP2_exact (dir : Dir) (p : Nat) (x : List ℂ) :
    fftP2 exactArith (brevTable (2 ^ p)) (exactTw (2 ^ p)) x (2 ^ p) dir
      = (List.range (2 ^ p)).map (dftSum dir (2 ^ p) (x.getD · 0)) := by
  have hload := blockDfts_brevLoad dir x p
  have hblocks : BlockDfts dir (x.getD · 0) 0 (2 ^ p)
      (fftP2 exactArith (brevTable (2 ^ p)) (exactTw (2 ^ p)) x (2 ^ p) dir) := by
    rw [fftP2, Nat.log2_two_pow]
    rcases Nat.even_or_odd' p with ⟨f, rfl | rfl⟩
    · rw [if_neg (by omega)]
      exact blockDfts_radix4Loop (f := f) (by omega) (Nat.mul_one _).symm Nat.one_pos
        (length_brevLoad ..) hload
    · rw [if_pos (by omega)]
      exact blockDfts_radix4Loop (f := f) (by omega) rfl Nat.two_pos
        (by simp) (blockDfts_radix2Stage hload (length_brevLoad ..))
  refine eq_map_range_of_getD (z := 0) (length_fftP2 ..) fun k hk => ?_
  have hk := hblocks 0 Nat.one_pos k hk
  simpa [revBits] using hk


/-! ## The three transforms (R180) -/

theorem fftP2_fwd_exact (p : Nat) (x : List ℂ) :
    fftP2 exactArith (brevTable (2 ^ p)) (exactTw (2 ^ p)) x (2 ^ p) .fwd
      = exactDft (2 ^ p) x := by
  rw [fftP2_exact, exactDft_eq]

theorem invP2_exact (p : Nat) (x : List ℂ) :
    invP2 exactArith (brevTable (2 ^ p)) (exactTw (2 ^ p)) x (2 ^ p)
      = exactInvDft (2 ^ p) x := by
  rw [invP2, scaleDown, fftP2_exact, exactInvDft_eq, List.map_map]
  rfl

/-- The bins of a real sequence are Hermitian (R181), so the mirrored ones are those of the DFT. -/
theorem mirror_exactDft (n : Nat) (x : List ℝ) :
    mirror exactArith n (exactDft n (x.map exactArith.ofReal))
      = exactDft n (x.map exactArith.ofReal) := by
  have hreal (j : Nat) : (starRingEnd ℂ) ((x.map exactArith.ofReal).getD j 0)
      = (x.map exactArith.ofReal).getD j 0 := by
    have hget := getD_map_ofReal exactArith exactArith_ofReal_rzero x j
    exact hget ▸ Complex.conj_ofReal _
  have hherm (k : Nat) (hk : k < n) :
      (starRingEnd ℂ) (dftSum .fwd n ((x.map exactArith.ofReal).getD · 0) (n - k))
        = dftSum .fwd n ((x.map exactArith.ofReal).getD · 0) k := by
    rw [conj_dftSum_fwd, funext hreal, dftSum_inv_sub hk]
  rw [exactDft_eq]
  refine List.map_congr_left fun k hk => ?_
  have hk : k < n := List.mem_range.1 hk
  split
  · exact (congrArg (starRingEnd ℂ) (getD_map_range (by omega))).trans (hherm k hk)
  · exact getD_map_range hk

theorem realP2_exact (p : Nat) (x : List ℝ) :
    realP2 exactArith (brevTable (2 ^ p)) (exactTw (2 ^ p)) x (2 ^ p)
      = exactDft (2 ^ p) (x.map exactArith.ofReal) := by
  rw [realP2, fftP2_fwd_exact, mirror_exactDft]

/-- Settles O51: each stage turns blocks of transforms into blocks of longer ones. -/
theorem powerOfTwoDatapathIsTheDft : Obligations.PowerOfTwoDatapathIsTheDft := by
  rintro p n - rfl
  exact ⟨fun x _ => ⟨fftP2_fwd_exact p x, invP2_exact p x⟩, fun x _ => realP2_exact p x⟩

end Sys2Proof.Machine

/-! SUPPORT. The Bluestein datapath in exact arithmetic (R170 to R176, R180): the inner transforms convolve the
chirped input with the inverse chirp, and the chirps of `j`, `k` and `k - j` make the twiddle of `j * k`. -/

namespace Sys2Proof.Machine

/-! ## Convolution -/

/-- The inverse transform of a product of transforms convolves the sequences; nothing wraps around where the
first one is zero beyond `t`. -/
theorem dftSum_inv_mul_dftSum {m t : Nat} (ht : t < m) (a b : Nat → ℂ)
    (ha : ∀ i < m, t < i → a i = 0) :
    dftSum .inv m (fun q => dftSum .fwd m a q * dftSum .fwd m b q) t
      = m * ∑ i ∈ Finset.range m, a i * b (t - i) := by
  have hshift (i : Nat) (hi : i ≤ t) (q : Nat) :
      unityRoot .fwd m ^ (i * q) * unityRoot .inv m ^ (q * t) = unityRoot .inv m ^ (q * (t - i)) := by
    have ht' : q * t = i * q + q * (t - i) := by rw [Nat.mul_comm i, ← Nat.mul_add]; congr; omega
    rw [ht', pow_add, ← mul_assoc, ← mul_pow, unityRoot_fwd_mul_inv, one_pow, one_mul]
  have hterm (i : Nat) (hi : i < m) :
      ∑ q ∈ Finset.range m, a i * unityRoot .fwd m ^ (i * q) * dftSum .fwd m b q *
        unityRoot .inv m ^ (q * t) = m * (a i * b (t - i)) := by
    rcases Nat.lt_or_ge t i with hit | hit
    · simp [ha i hi hit]
    · calc _ = a i * dftSum .inv m (dftSum .fwd m b) (t - i) := by
            rw [dftSum, Finset.mul_sum]
            refine Finset.sum_congr rfl fun q _ => ?_
            rw [← hshift i hit q]
            ring
        _ = m * (a i * b (t - i)) := by rw [dftSum_inv_dftSum_fwd (by omega)]; ring
  rw [Finset.mul_sum, ← Finset.sum_congr rfl fun i hi => hterm i (Finset.mem_range.1 hi),
    Finset.sum_comm]
  refine Finset.sum_congr rfl fun q _ => ?_
  rw [← Finset.sum_mul, ← Finset.sum_mul]
  rfl

/-- The same of lists, as the datapath holds them. -/
theorem getD_exactInvDft_mul {m t : Nat} (ht : t < m) (a b : List ℂ)
    (ha : ∀ i < m, t < i → a.getD i 0 = 0) :
    (exactInvDft m ((List.range m).map fun q =>
        (exactDft m a).getD q 0 * (exactDft m b).getD q 0)).getD t 0
      = ∑ i ∈ Finset.range m, a.getD i 0 * b.getD (t - i) 0 := by
  have hm : (m : ℂ) ≠ 0 := Nat.cast_ne_zero.2 (by omega)
  have hconv := dftSum_inv_mul_dftSum ht (a.getD · 0) (b.getD · 0) ha
  rw [exactInvDft_eq, getD_map_range ht, div_eq_iff hm, mul_comm, ← hconv]
  refine dftSum_congr (fun q hq => ?_) t
  rw [getD_map_range hq, exactDft_eq, exactDft_eq, getD_map_range hq, getD_map_range hq]

/-! ## The chirp (R171, R172) -/

/-- exp(-iπj²/n), the exact chirp (R171). -/
noncomputable def chirpAt (n j : Nat) : ℂ :=
  Complex.exp (-Real.pi * Complex.I * (j : ℂ) ^ 2 / n)

theorem getD_exactChirp {n j : Nat} (hj : j < n) : (exactChirp n).getD j 0 = chirpAt n j := by
  rw [exactChirp]
  simp only [bind_pure_comp, List.map_eq_map, List.map_map]
  exact getD_map_range hj

/-- The chirps of `j`, `k` and their distance make a twiddle: j² + k² - (k-j)² = 2jk. -/
theorem chirpAt_mul_conj_mul (n j k : Nat) :
    chirpAt n j * (starRingEnd ℂ) (chirpAt n ((k : Int) - j).natAbs) * chirpAt n k
      = unityRoot .fwd n ^ (j * k) := by
  have hdist : ((((k : Int) - j).natAbs : ℕ) : ℂ) ^ 2 = ((k : ℂ) - j) ^ 2 := by
    rw [Nat.cast_natAbs, ← Int.cast_pow, sq_abs]
    push_cast
    rfl
  rw [← exactTwiddle_eq_pow, exactTwiddle, chirpAt, chirpAt, chirpAt, ← Complex.exp_conj, hdist,
    ← Complex.exp_add, ← Complex.exp_add]
  congr 1
  simp
  ring

theorem getD_ichirp {n m j k : Nat} (hj : j < n) (hk : k < n) (hm : 2 * n - 1 ≤ m) :
    (ichirp exactArith n m (exactChirp n)).getD (k + n - 1 - j) 0
      = (starRingEnd ℂ) (chirpAt n ((k : Int) - j).natAbs) := by
  have hdist : (((k + n - 1 - j : ℕ) : Int) - ((n : Int) - 1)).natAbs = ((k : Int) - j).natAbs := by
    omega
  rw [ichirp, getD_map_range (by omega), if_pos (by omega), hdist]
  exact congrArg (starRingEnd ℂ) (getD_exactChirp (by omega))

/-! ## The datapath -/

variable {n p : Nat}

/-- BF of R172 in exact arithmetic, for the inner length `2 ^ p` and the chirp `w`. -/
noncomputable def exactBf (n p : Nat) (w : List ℂ) : List ℂ :=
  ichirpTransform exactArith n (2 ^ p) (brevTable (2 ^ p)) (exactTw (2 ^ p)) w

theorem exactBf_eq (n p : Nat) (w : List ℂ) :
    exactBf n p w = exactDft (2 ^ p) (ichirp exactArith n (2 ^ p) w) := by
  rw [exactBf, ichirpTransform, fftP2_fwd_exact]

/-- R173 after its first line: the convolution with the inverse chirp, and the product with the chirp. -/
theorem bsConvolve_exact (hm : 2 * n - 1 ≤ 2 ^ p) (w a : List ℂ) :
    bsConvolve exactArith n (2 ^ p) (brevTable (2 ^ p)) (exactTw (2 ^ p)) w
        (exactBf n p w) a
      = (List.range n).map fun k => (∑ j ∈ Finset.range n, a.getD j 0 *
          (ichirp exactArith n (2 ^ p) w).getD (k + n - 1 - j) 0) * w.getD k 0 := by
  rw [bsConvolve, exactBf_eq, fftP2_fwd_exact, invP2_exact]
  refine List.map_congr_left fun k hk => congrArg (· * w.getD k 0) ?_
  have hk : k < n := List.mem_range.1 hk
  set padded := (List.range (2 ^ p)).map fun j => if j < n then a.getD j 0 else 0
  have hpad (j : Nat) (hj : j < 2 ^ p) : padded.getD j 0 = if j < n then a.getD j 0 else 0 :=
    getD_map_range hj
  set ich := ichirp exactArith n (2 ^ p) w
  calc _ = ∑ j ∈ Finset.range (2 ^ p), padded.getD j 0 * ich.getD (k + n - 1 - j) 0 :=
        getD_exactInvDft_mul (by omega) padded ich fun j hj hkj => by
          rw [hpad j hj, if_neg (by omega)]
    _ = ∑ j ∈ Finset.range n, padded.getD j 0 * ich.getD (k + n - 1 - j) 0 := by
        refine (Finset.sum_subset (Finset.range_subset_range.2 (by omega)) fun j hj hjn => ?_).symm
        rw [hpad j (Finset.mem_range.1 hj), if_neg (by simpa using hjn), zero_mul]
    _ = ∑ j ∈ Finset.range n, a.getD j 0 * ich.getD (k + n - 1 - j) 0 := by
        refine Finset.sum_congr rfl fun j hj => ?_
        have hj : j < n := Finset.mem_range.1 hj
        rw [hpad j (by omega), if_pos hj]

theorem bsFwd_exact (hm : 2 * n - 1 ≤ 2 ^ p) (x : List ℂ) :
    bsFwd exactArith n (2 ^ p) (brevTable (2 ^ p)) (exactTw (2 ^ p)) (exactChirp n)
        (exactBf n p (exactChirp n)) x
      = exactDft n x := by
  rw [bsFwd, bsConvolve_exact hm, exactDft_eq]
  refine List.map_congr_left fun k hk => ?_
  have hk : k < n := List.mem_range.1 hk
  rw [dftSum, Finset.sum_mul]
  refine Finset.sum_congr rfl fun j hj => ?_
  have hj : j < n := Finset.mem_range.1 hj
  rw [getD_map_range hj, getD_ichirp hj hk hm, getD_exactChirp hk, ← chirpAt_mul_conj_mul]
  change x.getD j 0 * (exactChirp n).getD j 0 * _ * _ = _
  rw [getD_exactChirp hj]
  ring

theorem bsReal_exact (hm : 2 * n - 1 ≤ 2 ^ p) (x : List ℝ) :
    bsReal exactArith n (2 ^ p) (brevTable (2 ^ p)) (exactTw (2 ^ p)) (exactChirp n)
        (exactBf n p (exactChirp n)) x
      = exactDft n (x.map exactArith.ofReal) := by
  rw [bsReal_eq_bsFwd _ exactArith_ofReal_rzero exactArith_rmul, bsFwd_exact hm]

theorem bsInv_exact (hm : 2 * n - 1 ≤ 2 ^ p) (x : List ℂ) :
    bsInv exactArith n (2 ^ p) (brevTable (2 ^ p)) (exactTw (2 ^ p)) (exactChirp n)
        (exactBf n p (exactChirp n)) x
      = exactInvDft n x := by
  have hconj (j : Nat) : (starRingEnd ℂ) ((x.map exactArith.conj).getD j 0) = x.getD j 0 := by
    have hget : (x.map exactArith.conj).getD j (exactArith.conj 0) = (starRingEnd ℂ) (x.getD j 0) :=
      List.getD_map x 0 exactArith.conj
    have hzero : exactArith.conj 0 = 0 := map_zero (starRingEnd ℂ)
    rw [hzero] at hget
    rw [hget, Complex.conj_conj]
  rw [bsInv, bsFwd_exact hm, exactDft_eq, exactInvDft_eq, scaleDown, List.map_map, List.map_map]
  refine List.map_congr_left fun k _ => congrArg (· / (n : ℂ)) ?_
  exact (conj_dftSum_fwd n _ k).trans (congrArg (dftSum .inv n · k) (funext hconj))

/-- Settles O52: the chirp identity under the convolution that the inner transforms compute. -/
theorem bluesteinDatapathIsTheDft : Obligations.BluesteinDatapathIsTheDft := by
  rintro n m bf - - rfl rfl
  have hm := nextPow2_ge (2 * n - 1)
  obtain ⟨p, hp⟩ := nextPow2_isPow2 (2 * n - 1)
  rw [hp] at hm ⊢
  exact ⟨fun x _ => ⟨bsFwd_exact hm x, bsInv_exact hm x⟩, fun x _ => bsReal_exact hm x⟩

end Sys2Proof.Machine

/-! SUPPORT. The commands PLAN, FFT_FWD, FFT_REAL and FFT_INV: what they write and when they fail (R141 to R145,
R175, R181). -/

namespace Sys2Proof.Machine

variable {s : State}

/-! ## PLAN (R141, R145) -/

/-- Settles O9: phase 3 of PLAN installs the plan built for PLAN_N, and the registers show it. -/
theorem planInstallsThePlan : Obligations.PlanInstallsThePlan := by
  intro s hparams hcheck
  have hphase : Phase3 s .plan (s.installPlan (buildPlan s.snap.planN.toNat)) := .plan
  obtain ⟨hvalid, hbs, hcur, hm, hobuf⟩ := installPlan_shown hparams hcheck
  rw [pn_buildPlan] at hcur
  rw [buildPlan_isBs] at hbs
  exact ⟨_, exec_plan_ok hcheck, hphase.succeeded, rfl, BitVec.eq_of_toNat_eq hcur, hm, hobuf, hvalid,
    hbs, bytesKept_of_empty hphase.bytesKeptOutside rfl, hphase.shapeKept nofun, hphase.hostSideKept⟩

/-- A command whose checks find `e` fails with the code of `e`, and changes nothing else (R312). -/
theorem exists_failedWith {i : Instr} {e : Err} (h : commandError i s = some e) :
    ∃ t, exec i s = .next t ∧ FailedWith s t (errNumber e) :=
  ⟨_, exec_fail h, failedWith_fail s e⟩

theorem checkPlanLength_eq (p : Params) (n : Nat) :
    checkPlanLength p n =
      if n ≤ 1 then some .invalidLength
      else if isPow2 n = true ∧ 2 ^ p.planMaxLog2 < n then some .capacity
      else if isPow2 n = false ∧ 2 ^ p.planMaxLog2 < nextPow2 (2 * n - 1) then some .capacity
      else none := by
  simp [checkPlanLength]

/-- Settles O11: the checks of R145 in order, and PLAN has no operand to wait for. -/
theorem planLengthErrorsInOrder : Obligations.PlanLengthErrorsInOrder := by
  rintro s n rfl
  have herr : commandError .plan s = _ := checkPlanLength_eq s.params s.snap.planN.toNat
  refine ⟨fun hlen => exists_failedWith (herr.trans (if_pos hlen)), fun hlen hpow hcap => ?_,
    fun hlen hpow hcap => ?_, fun hlen hpow hbs => ?_⟩
  · rw [if_neg (by omega), if_pos ⟨hpow, hcap⟩] at herr
    exact exists_failedWith herr
  · rw [if_neg (by omega), if_neg (by simp [hpow]), if_pos ⟨hpow, hcap⟩] at herr
    exact exists_failedWith herr
  · rw [if_neg (by omega), if_neg fun h => by have := hpow h.1; omega,
      if_neg fun h => by have := hbs h.1; omega] at herr
    exact everyCommandCompletesOnWrittenOperands .plan s herr nofun

/-! ## What the transforms write (R142 to R144, R175) -/

/-- Phase 3 of a transform that writes the bins `xs` leaves their parts at FFT_DST, and all else as it was. -/
theorem Phase3.writesBins {i : Instr} {xs : List C64}
    (hu : Phase3 s i (s.engineWrite s.snap.fftDst.toNat (ofComplex xs)))
    (hspan : writeSpan i s = { start := s.snap.fftDst.toNat, len := 2 * xs.length })
    (hplan : i ≠ .plan) (hshape : i ≠ .spectrogram) :
    (∀ k < xs.length,
      (fftFinish s xs).mem.readWord (s.snap.fftDst.toNat + 2 * k)
        = some (settleNaN (s.draws + 2 * k) (xs.getD k czero).re) ∧
      (fftFinish s xs).mem.readWord (s.snap.fftDst.toNat + 2 * k + 1)
        = some (settleNaN (s.draws + (2 * k + 1)) (xs.getD k czero).im)) ∧
    BytesKeptOutside s (fftFinish s xs) { start := s.snap.fftDst.toNat, len := 2 * xs.length } ∧
    Succeeded s (fftFinish s xs) ∧ PlanKept s (fftFinish s xs) ∧ ShapeKept s (fftFinish s xs) ∧
    HostSideKept s (fftFinish s xs) := by
  refine ⟨fun k hk => ?_, hspan ▸ hu.bytesKeptOutside, hu.succeeded, hu.planKept hplan,
    hu.shapeKept hshape, hu.hostSideKept⟩
  obtain ⟨hre, him⟩ := getD_ofComplex xs k
  have hlen := length_ofComplex xs
  rw [← hre, ← him]
  exact ⟨engineWrite_readWord s _ _ (by omega), engineWrite_readWord s _ (2 * k + 1) (by omega)⟩

/-- Settles O12: FFT_FWD writes the bins of its plan's forward transform. -/
theorem fftFwdWritesTheForwardTransform : Obligations.FftFwdWritesTheForwardTransform := by
  intro s p x hp hce hx
  have hwrites := (Phase3.fftFwd p x hp hx).writesBins (by simp [writeSpan, planLen_of_plan hp])
    nofun nofun
  rw [length_planFwd] at hwrites
  exact ⟨_, exec_fftFwd_ok hce hp hx, hwrites⟩

/-- Settles O13: FFT_REAL writes the bins of its plan's real transform. -/
theorem fftRealWritesTheRealTransform : Obligations.FftRealWritesTheRealTransform := by
  intro s p x hp hce hx
  have hwrites := (Phase3.fftReal p x hp hx).writesBins (by simp [writeSpan, planLen_of_plan hp])
    nofun nofun
  rw [length_planReal] at hwrites
  exact ⟨_, exec_fftReal_ok hce hp hx, hwrites⟩

/-- Settles O14: FFT_INV writes the values of its plan's inverse transform. -/
theorem fftInvWritesTheInverseTransform : Obligations.FftInvWritesTheInverseTransform := by
  intro s p x hp hce hx
  have hwrites := (Phase3.fftInv p x hp hx).writesBins (by simp [writeSpan, planLen_of_plan hp])
    nofun nofun
  rw [length_planInv] at hwrites
  exact ⟨_, exec_fftInv_ok hce hp hx, hwrites⟩

/-! ## The transforms' checks (R142 to R144, R313) -/

theorem fftBufferError_eq (s : State) (words : Nat) :
    fftBufferError s words =
      if outOfRange s.params (fftReads s words) = true ∨ outOfRange s.params (fftWrites s) = true
      then some .range
      else if overlaps (fftWrites s) (fftReads s words) = true then some .aliasing
      else none := by
  simp [fftBufferError, anyOutOfRange, anyAlias]

theorem fftRange_iff {words : Nat} :
    outOfRange s.params (fftReads s words) = true ∨ outOfRange s.params (fftWrites s) = true ↔
      (0 < words ∧ dmemWords s.params < s.snap.fftSrc.toNat + words) ∨
      (0 < s.planObuf.toNat ∧ dmemWords s.params < s.snap.fftDst.toNat + s.planObuf.toNat) := by
  simp only [outOfRange_iff, fftReads, fftWrites, Nat.pos_iff_ne_zero]

theorem fftAlias_iff {words : Nat} :
    overlaps (fftWrites s) (fftReads s words) = true ↔
      ∃ w, (s.snap.fftSrc.toNat ≤ w ∧ w < s.snap.fftSrc.toNat + words) ∧
        (s.snap.fftDst.toNat ≤ w ∧ w < s.snap.fftDst.toNat + s.planObuf.toNat) :=
  overlaps_iff_exists_word.trans (exists_congr fun _ => and_comm)

/-- The words a transform reads at FFT_SRC: N real ones, or N complex ones of two words each. -/
def fftReadLen (i : Instr) (s : State) : Nat :=
  if i = .fftReal then planLen s else 2 * planLen s

theorem commandError_transform {i : Instr} (hi : i = .fftFwd ∨ i = .fftReal ∨ i = .fftInv) :
    commandError i s =
      if s.plan = none then some .noPlan else fftBufferError s (fftReadLen i s) := by
  cases hp : s.plan with
  | none => rcases hi with rfl | rfl | rfl <;> simp [commandError, hp]
  | some p =>
    rcases hi with rfl | rfl | rfl <;> simp [commandError, hp, fftReadLen, planLen_of_plan hp]

/-- Settles O23: with a plan, the checks of R90 and R91 on the input and on PLAN_OBUF words at FFT_DST. -/
theorem transformErrorsInOrder : Obligations.TransformErrorsInOrder := by
  rintro i s hi src dst words obuf rfl rfl rfl hwords
  obtain rfl : words = fftReadLen i s := hwords
  have herr := commandError_transform (s := s) hi
  rw [fftBufferError_eq] at herr
  have hrange := fftRange_iff (s := s) (words := fftReadLen i s)
  have halias := fftAlias_iff (s := s) (words := fftReadLen i s)
  refine ⟨fun hp => ?_, fun hp hout => ?_, fun hp hsrc hdst hw => ?_, fun hp hsrc hdst hw => ?_⟩
  · rw [if_pos hp] at herr
    exact exists_failedWith herr
  · rw [if_neg hp, if_pos (hrange.2 hout)] at herr
    exact exists_failedWith herr
  · rw [if_neg hp, if_neg (mt hrange.1 (by omega)), if_pos (halias.2 hw)] at herr
    exact exists_failedWith herr
  · rwa [if_neg hp, if_neg (mt hrange.1 (by omega)), if_neg (mt halias.1 hw)] at herr

/-! ## The real transform (R167, R181) -/

theorem getD_mirror {R C : Type} (A : CArith R C) {n k : Nat} (x : List C) (hk : k < n) :
    (mirror A n x).getD k A.zero
      = if n / 2 < k then A.conj (x.getD (n - k) A.zero) else x.getD k A.zero :=
  getD_map_range hk

/-- Settles O53: the mirror writes bin N-k as the conjugate of bin k, which it keeps. -/
theorem realTransformIsHermitian : Obligations.RealTransformIsHermitian := by
  intro pl brev tw x htables _ k hk1 hk
  have hreal : planReal pl x = realP2 f64Arith brev tw x pl.pn := by rw [planReal, htables]
  have hzero : czero = f64Arith.zero := rfl
  rw [hreal, realP2, hzero, getD_mirror _ _ (by omega), getD_mirror _ _ (by omega),
    if_pos (by omega), if_neg (by omega), Nat.sub_sub_self (by omega)]
  rfl

end Sys2Proof.Machine

/-! SUPPORT. Rounding keeps a bound that is a binary64 value (R10), and magnitudes are ordered as the bits
are (R83). -/

namespace Sys2Proof.Machine

variable {a b c v : F64}

/-! ## Magnitudes in order -/

theorem fmag_lt_overflowUnits (hc : fisFinite c = true) : fmag c < overflowUnits := by
  have hexpo := fexpo_lt c
  rw [fisFinite, bne_iff_ne] at hc
  rcases Nat.lt_or_ge (fexpo c) 1993 with hlow | hhigh
  · exact (fmag_lt c).trans_le (two_pow_le_overflowUnits (by omega))
  · have hfrac := ffrac_lt c
    have hpow : 2 ^ (fexpo c - 1) ≤ 2 * 2 ^ 2044 :=
      (pow_le_pow_right₀ one_le_two (by omega)).trans_eq (pow_succ' ..)
    have hsig (u : Nat) (hu : 0 < u) : (2 ^ 53 - 1) * (2 * u) < (2 ^ 54 - 1) * u := by omega
    rw [fmag, if_neg (by omega), overflowUnits]
    exact (Nat.mul_le_mul (by omega) hpow).trans_lt (hsig _ (by positivity))

/-- A magnitude grows with the low 63 bits. -/
theorem fmag_le_of_bits_le (h : a.toNat % 2 ^ 63 ≤ b.toNat % 2 ^ 63) : fmag a ≤ fmag b := by
  have hexpo : fexpo a ≤ fexpo b := by rw [fexpo_eq, fexpo_eq]; omega
  rcases Nat.lt_or_eq_of_le hexpo with hlt | heq
  · calc fmag a ≤ 2 ^ (52 + fexpo a) := (fmag_lt a).le
      _ ≤ 2 ^ (52 + (fexpo b - 1)) := Nat.pow_le_pow_right (by decide) (by omega)
      _ = 2 ^ 52 * 2 ^ (fexpo b - 1) := pow_add ..
      _ ≤ fmag b := by
        rw [fmag, if_neg (by omega)]
        exact Nat.mul_le_mul_right _ (Nat.le_add_right ..)
  · have hfrac : ffrac a ≤ ffrac b := by
      rw [fexpo_eq, fexpo_eq] at heq
      rw [ffrac_eq, ffrac_eq]
      omega
    rw [fmag, fmag, heq]
    split
    · exact hfrac
    · exact Nat.mul_le_mul_right _ (by omega)

theorem fisZero_eq_false_of_fmag_pos (h : 0 < fmag a) : fisZero a = false := by
  rw [Bool.eq_false_iff]
  intro hzero
  rcases fisZero_iff.1 hzero with rfl | rfl <;> exact absurd h (by decide)

/-! ## Bounds -/

/-- What is at most a binary64 value rounds to at most that value. -/
theorem fround_bound {n d : Nat} (neg : Bool) (hd : 0 < d) (hc : fisFinite c = true)
    (h : n ≤ fmag c * d) :
    fisFinite (fround neg n d) = true ∧ fmag (fround neg n d) ≤ fmag c := by
  have hlt : n < overflowUnits * d :=
    h.trans_lt (Nat.mul_lt_mul_of_pos_right (fmag_lt_overflowUnits hc) hd)
  refine ⟨fisFinite_fround neg hd hlt, ?_⟩
  rw [fmag_fround neg hd hlt]
  have hspace : (2 : Int) ^ roundShift n d ∣ fmag c ∨ (fmag c : Int) < 2 ^ (52 + roundShift n d) := by
    exact_mod_cast dvd_fmag_or_lt c (roundShift n d)
  have hnear := (le_abs_self _).trans (roundSig_nearest hd hspace).1
  have h' : (n : Int) ≤ fmag c * d := by exact_mod_cast h
  rw [abs_of_nonneg (sub_nonneg.2 h'), sub_le_sub_iff_right] at hnear
  exact Nat.le_of_mul_le_mul_right (by exact_mod_cast hnear) hd

section
variable (ha : fisFinite a = true) (hb : fisFinite b = true)
include ha hb

theorem fmul_bound (hc : fisFinite c = true) (h : fmag a * fmag b ≤ fmag c * unitsPerOne) :
    fisFinite (fmul a b) = true ∧ fmag (fmul a b) ≤ fmag c := by
  rw [fmul_of_finite ha hb]
  exact fround_bound _ unitsPerOne_pos hc h

theorem fdiv_bound (hpos : 0 < fmag b) (hc : fisFinite c = true)
    (h : fmag a * unitsPerOne ≤ fmag c * fmag b) :
    fisFinite (fdiv a b) = true ∧ fmag (fdiv a b) ≤ fmag c := by
  rw [fdiv_of_finite ha hb (fisZero_eq_false_of_fmag_pos hpos)]
  exact fround_bound _ hpos hc h

/-- A value without a sign minus one of no greater magnitude is neither NaN nor negative: +0.0 when they
are equal. -/
theorem fsub_not_negative (hs : fsign a = false) (h : fmag b ≤ fmag a) :
    fisNaN (fsub a b) = false ∧ fsign (fsub a b) = false := by
  have hz : 0 ≤ funits a + funits (fneg b) := by
    rw [funits_fneg, funits_of_pos hs]
    rcases funits_eq_or_neg b with hu | hu <;> omega
  rw [fsub, fadd_of_finite ha (by rwa [fisFinite_fneg]), fisNaN_fround, fsign_fround, sumSign, hs,
    Bool.false_and, decide_eq_false hz.not_gt, ite_self]
  exact ⟨rfl, rfl⟩

end

/-! ## The unit interval and the integers -/

theorem f64OfNat_exact {n : Nat} (h : n ≤ 2 ^ 53) :
    fisFinite (f64OfNat n) = true ∧ fmag (f64OfNat n) = n * unitsPerOne := by
  obtain ⟨hfin, hunits⟩ := f64OfInt_exact (n := n) (by rw [Nat.abs_cast]; exact_mod_cast h)
  rw [f64OfInt_natCast] at hfin hunits
  rw [funits_of_pos (show fsign (f64OfNat n) = false from fsign_fround ..)] at hunits
  exact ⟨hfin, by exact_mod_cast hunits⟩

theorem fmag_fone : fmag fone = unitsPerOne := by
  have h := (f64OfNat_exact (n := 1) (by decide)).2
  rwa [Nat.one_mul, show f64OfNat 1 = fone by decide +kernel] at h

/-- A value between -1.0 and 1.0 is finite, of magnitude at most 1.0. -/
theorem fmag_le_of_unit_bounds (hlo : fle fnegOne v = true) (hhi : fle v fone = true) :
    fisFinite v = true ∧ fmag v ≤ unitsPerOne := by
  simp only [fle, Bool.and_eq_true, decide_eq_true_eq] at hlo hhi
  obtain ⟨-, hlo⟩ := hlo
  obtain ⟨-, hhi⟩ := hhi
  rw [show fkey fnegOne = -0x3FF0000000000000 by decide, fkey_eq] at hlo
  rw [show fkey fone = 0x3FF0000000000000 by decide, fkey_eq] at hhi
  have hbits : v.toNat % 2 ^ 63 ≤ 0x3FF0000000000000 := by
    split_ifs at hlo hhi <;> omega
  refine ⟨?_, (fmag_le_of_bits_le (b := fone) hbits).trans_eq fmag_fone⟩
  rw [fisFinite, bne_iff_ne, fexpo_eq]
  omega

end Sys2Proof.Machine

/-! SUPPORT. The window generator WIN_GEN and the checks of both generators (R201 to R206, R221, R313). -/

namespace Sys2Proof.Machine

/-! ## The generators' checks (R201, R221) -/

theorem anyOutOfRange_singleton_iff {p : Params} {a n : Nat} :
    anyOutOfRange p [⟨a, n⟩] = true ↔ 0 < n ∧ dmemWords p < a + n := by
  simp [anyOutOfRange, outOfRange_iff, Nat.pos_iff_ne_zero]

/-- Settles O24: each list of checks, in order; a matrix with legal dimensions is not empty. -/
theorem generatorErrorsInOrder : Obligations.GeneratorErrorsInOrder := by
  intro s
  refine ⟨?_, ?_⟩
  · simp only [commandError, winGenError, firstError_cons, firstError_nil, decide_eq_true_eq,
      anyOutOfRange_singleton_iff]
  · simp only [commandError, melBuildError, firstError_cons, firstError_nil, Bool.or_eq_true,
      decide_eq_true_eq, anyOutOfRange_singleton_iff]
    by_cases hdims : s.snap.melNfilt.toNat < 1 ∨ s.snap.melNbins.toNat < 2
    · rw [if_pos hdims, if_pos hdims]
    · have hpos : 0 < s.snap.melNfilt.toNat * s.snap.melNbins.toNat :=
        Nat.mul_pos (by omega) (by omega)
      simp only [hpos, true_and]

/-! ## The four kinds of value (R203 to R205) -/

theorem winValue_boxcar (i mlen : Nat) : winValue 0 i mlen = fone := by
  rw [winValue, if_pos rfl]

theorem winValue_hann (i mlen : Nat) : winValue 1 i mlen = cosineValue a0Hann i mlen := by
  rw [winValue, if_neg (by decide), if_pos rfl]

theorem winValue_hamming (i mlen : Nat) :
    winValue 2 i mlen = cosineValue a0Hamming i mlen := by
  rw [winValue, if_neg (by decide), if_neg (by decide), if_pos rfl]

theorem winValue_povey (i mlen : Nat) :
    winValue 3 i mlen = fPow (cosineValue a0Hann i mlen) poveyExp := by
  rw [winValue, if_neg (by decide), if_neg (by decide), if_neg (by decide)]

/-! ## What WIN_GEN writes (R201 to R206) -/

@[simp] theorem window_one (kind : Nat) (periodic : Bool) : window kind periodic 1 = [fone] := rfl

theorem getD_window {kind n i : Nat} {z : F64} (periodic : Bool) (hn : 2 ≤ n) (hi : i < n) :
    (window kind periodic n).getD i z = winValue kind i (windowPeriod periodic n) := by
  rw [window, if_neg (by omega), if_neg (by omega), getD_map_range hi]

/-- A boxcar is 1.0 at every index, at length 1 too. -/
theorem getD_window_boxcar {n i : Nat} {z : F64} (periodic : Bool) (hi : i < n) :
    (window 0 periodic n).getD i z = fone := by
  rcases Nat.lt_or_ge n 2 with hlt | hge
  · obtain ⟨rfl, rfl⟩ : n = 1 ∧ i = 0 := by omega
    rw [window_one, List.getD_cons_zero]
  · rw [getD_window periodic hge hi, winValue_boxcar]

theorem readWord_engineWrite_window (s : State) (a kind : Nat) (periodic : Bool) {n i : Nat}
    (hi : i < n) :
    (s.engineWrite a (window kind periodic n)).complete.mem.readWord (a + i)
      = some (settleNaN (s.draws + i) ((window kind periodic n).getD i fzero)) :=
  engineWrite_readWord s a i (by rwa [length_window])

/-- Settles O15: phase 3 of WIN_GEN writes the window's values at WIN_DST, NaNs settled; 1.0 is none. -/
theorem winGenWritesTheWindow : Obligations.WinGenWritesTheWindow := by
  rintro s n kind rfl rfl hce
  have hphase : Phase3 s .winGen _ := .winGen
  have hone (k : Nat) : settleNaN k fone = fone := settleNaN_of_not_isNaN k (by decide)
  refine ⟨_, exec_winGen_ok hce, fun hlen => ?_, fun hkind i hi => ?_, fun hlen i hi => ?_,
    hphase.bytesKeptOutside, hphase.succeeded, hphase.planKept nofun, hphase.shapeKept nofun,
    hphase.hostSideKept⟩
  · refine (readWord_engineWrite_window s _ _ _ (i := 0) (by omega)).trans ?_
    rw [hlen, window_one, List.getD_cons_zero, hone]
  · rw [readWord_engineWrite_window s _ _ _ hi, hkind, getD_window_boxcar _ hi, hone]
  · rw [readWord_engineWrite_window s _ _ _ hi, getD_window _ hlen hi, windowPeriod]

/-! ## The cosine of the window values (R203, R205) -/

theorem fmag_ftwoPi_le : fmag ftwoPi ≤ 2 ^ 3 * unitsPerOne := by
  rw [unitsPerOne, ← pow_add]
  exact (fmag_lt ftwoPi).le.trans_eq (congrArg (2 ^ ·) (by decide))

section
variable {mlen : Nat} (hlo : 2 ≤ mlen) (hhi : mlen ≤ 2 ^ 53)
include hlo hhi

theorem windowStep_bound :
    fisFinite (windowStep mlen) = true ∧ fmag (windowStep mlen) ≤ fmag ftwoPi := by
  obtain ⟨hfin, hmag⟩ := f64OfNat_exact (n := mlen - 1) (by omega)
  have hle : unitsPerOne ≤ fmag (f64OfNat (mlen - 1)) := by
    rw [hmag]
    exact Nat.le_mul_of_pos_left _ (by omega)
  exact fdiv_bound (by decide) hfin (unitsPerOne_pos.trans_le hle) (by decide)
    (Nat.mul_le_mul_left _ hle)

/-- The angle f64(i) * step of R203 is finite: it is at most 8 i. -/
theorem fisFinite_windowAngle {i : Nat} (hi : 8 * i ≤ 2 ^ 53) :
    fisFinite (fmul (f64OfNat i) (windowStep mlen)) = true := by
  obtain ⟨hstep, hle⟩ := windowStep_bound hlo hhi
  obtain ⟨hfin, hmag⟩ := f64OfNat_exact (n := i) (by omega)
  obtain ⟨hfin8, hmag8⟩ := f64OfNat_exact hi
  refine (fmul_bound hfin hstep hfin8 ?_).1
  calc fmag (f64OfNat i) * fmag (windowStep mlen)
      ≤ i * unitsPerOne * (2 ^ 3 * unitsPerOne) := by
        rw [hmag]
        exact Nat.mul_le_mul_left _ (hle.trans fmag_ftwoPi_le)
    _ = fmag (f64OfNat (8 * i)) * unitsPerOne := by rw [hmag8]; ring

/-- A hann value is 0.5 minus at most 0.5: the cosine is within [-1, 1] (R13). -/
theorem cosineValue_hann_not_negative {i : Nat} (hi : 8 * i ≤ 2 ^ 53) :
    fisNaN (cosineValue a0Hann i mlen) = false ∧ fsign (cosineValue a0Hann i mlen) = false := by
  obtain ⟨hcoslo, hcoshi⟩ := fCos_bounds (fisFinite_windowAngle hlo hhi hi)
  obtain ⟨hcos, hcosle⟩ := fmag_le_of_unit_bounds hcoslo hcoshi
  have hhalf : fisFinite a0Hann = true := by decide
  obtain ⟨hprod, hprodle⟩ := fmul_bound hhalf hcos hhalf (Nat.mul_le_mul_left _ hcosle)
  rw [cosineValue, show fsub fone a0Hann = a0Hann by decide +kernel]
  exact fsub_not_negative hhalf hprod (by decide) hprodle

/-- At index 0 the angle is a zero, whose cosine is 1.0 exactly (R13). -/
theorem cosineValue_zero (a0 : F64) :
    cosineValue a0 0 mlen = fsub a0 (fmul (fsub fone a0) fone) := by
  have hzero : f64OfNat 0 = fzero := by decide +kernel
  have hangle : fisZero (fmul fzero (windowStep mlen)) = true := by
    rw [fmul_of_finite (by decide) (windowStep_bound hlo hhi).1, show fmag fzero = 0 by decide,
      Nat.zero_mul, fround_zero]
    cases fsign fzero != fsign (windowStep mlen) <;> decide
  rw [cosineValue, hzero, fCos_of_isZero hangle]

end

/-- Settles O56: every hann value is 0.5 minus at most 0.5, and index 0 has the cosine 1.0. -/
theorem hannValuesAreNotNegative : Obligations.HannValuesAreNotNegative := by
  intro n periodic hlo hhi
  have hmlo : 2 ≤ windowPeriod periodic n := by unfold windowPeriod; split <;> omega
  have hmhi : windowPeriod periodic n ≤ 2 ^ 53 := by unfold windowPeriod; split <;> omega
  have hhann : cosineValue a0Hann 0 (windowPeriod periodic n) = fzero := by
    rw [cosineValue_zero hmlo hmhi]
    decide +kernel
  have hhamming : cosineValue a0Hamming 0 (windowPeriod periodic n) = 0x3FB47AE147AE1480 := by
    rw [cosineValue_zero hmlo hmhi]
    decide +kernel
  simp only [winValue_hann, winValue_hamming, winValue_povey, hhann, hhamming,
    fPow_zero_left (show flt fzero poveyExp = true by decide), and_self, and_true]
  exact fun i hi => cosineValue_hann_not_negative hmlo hmhi (by omega)

end Sys2Proof.Machine

/-! SUPPORT. Exact values are ordered as the comparisons order values (R10, R15), and rounding, a difference and
a quotient keep that order. -/

namespace Sys2Proof.Machine

/-! ## Exact values in the order of the comparisons -/

section
variable {a b : F64}

theorem fmag_lt_of_bits_lt (h : a.toNat % 2 ^ 63 < b.toNat % 2 ^ 63) : fmag a < fmag b := by
  have hexpo : fexpo a ≤ fexpo b := by rw [fexpo_eq, fexpo_eq]; omega
  rcases Nat.lt_or_eq_of_le hexpo with hlt | heq
  · calc fmag a < 2 ^ (52 + fexpo a) := fmag_lt a
      _ ≤ 2 ^ (52 + (fexpo b - 1)) := Nat.pow_le_pow_right (by decide) (by omega)
      _ = 2 ^ 52 * 2 ^ (fexpo b - 1) := pow_add ..
      _ ≤ fmag b := by
        rw [fmag, if_neg (by omega)]
        exact Nat.mul_le_mul_right _ (Nat.le_add_right ..)
  · have hfrac : ffrac a < ffrac b := by
      rw [fexpo_eq, fexpo_eq] at heq
      rw [ffrac_eq, ffrac_eq]
      omega
    rw [fmag, fmag, heq]
    split
    · exact hfrac
    · exact Nat.mul_lt_mul_of_pos_right (by omega) (Nat.two_pow_pos _)

theorem fmag_le_iff_bits_le : fmag a ≤ fmag b ↔ a.toNat % 2 ^ 63 ≤ b.toNat % 2 ^ 63 :=
  ⟨fun h => Nat.le_of_not_lt fun hlt => (fmag_lt_of_bits_lt hlt).not_ge h, fmag_le_of_bits_le⟩

theorem fmag_eq_zero_iff : fmag a = 0 ↔ a.toNat % 2 ^ 63 = 0 := by
  have h := fmag_le_iff_bits_le (a := a) (b := fzero)
  rwa [show fmag fzero = 0 by decide, show fzero.toNat % 2 ^ 63 = 0 by decide, Nat.le_zero,
    Nat.le_zero] at h

/-- The comparisons order values as their exact values: the two zeros are equal. -/
theorem funits_le_iff_fkey_le : funits a ≤ funits b ↔ fkey a ≤ fkey b := by
  have hab := fmag_le_iff_bits_le (a := a) (b := b)
  have hba := fmag_le_iff_bits_le (a := b) (b := a)
  have ha := fmag_eq_zero_iff (a := a)
  have hb := fmag_eq_zero_iff (a := b)
  rw [fkey_eq, fkey_eq, funits, funits]
  split_ifs <;> omega

theorem funits_le_of_fle (h : fle a b = true) : funits a ≤ funits b := by
  simp only [fle, Bool.and_eq_true, decide_eq_true_eq] at h
  exact funits_le_iff_fkey_le.2 h.2

theorem funits_lt_of_flt (h : flt a b = true) : funits a < funits b := by
  simp only [flt, Bool.and_eq_true, decide_eq_true_eq] at h
  exact lt_of_not_ge fun hle => h.2.not_ge (funits_le_iff_fkey_le.1 hle)

end

/-! ## Rounding keeps the order -/

theorem divNearest_mono {n n' : Nat} (q : Nat) (h : n ≤ n') : divNearest n q ≤ divNearest n' q := by
  have hdiv : n / q ≤ n' / q := Nat.div_le_div_right h
  have hn := Nat.div_add_mod n q
  have hn' := Nat.div_add_mod n' q
  unfold divNearest
  rcases Nat.lt_or_eq_of_le hdiv with hlt | heq
  · split_ifs <;> omega
  · rw [heq] at hn ⊢
    split_ifs <;> omega

theorem roundShift_mono {n n' d : Nat} (hd : 0 < d) (h : n ≤ n') : roundShift n d ≤ roundShift n' d :=
  Nat.le_of_not_lt fun hlt =>
    (lt_of_roundShift hd (n := n')).not_ge (((lt_roundShift_iff hd).1 hlt).trans h)

/-- In one binade the significands are in order; a higher binade starts where a lower one ends. -/
theorem roundMag_mono {n n' d : Nat} (hd : 0 < d) (h : n ≤ n') : roundMag n d ≤ roundMag n' d := by
  rw [roundMag_eq, roundMag_eq]
  refine min_le_min_right _ ?_
  rcases Nat.lt_or_eq_of_le (roundShift_mono hd h) with hlt | heq
  · have hlow := roundSig_le hd (n := n)
    have hhigh := le_roundSig hd (n := n') (by omega)
    omega
  · rw [roundSig, roundSig, heq]
    exact Nat.add_le_add_right (divNearest_mono _ h) _

theorem divNearest_mul_mul_left (n q : Nat) {d : Nat} (hd : 0 < d) :
    divNearest (d * n) (d * q) = divNearest n q := by
  simp only [divNearest, Nat.mul_div_mul_left _ _ hd, Nat.mul_mod_mul_left, Nat.mul_left_comm 2 d,
    gt_iff_lt, Nat.mul_lt_mul_left hd, Nat.mul_right_inj hd.ne']

theorem roundMag_mul_left (n : Nat) {d : Nat} (hd : 0 < d) : roundMag (d * n) d = roundMag n 1 := by
  have hshift : roundShift (d * n) d = roundShift n 1 := by
    rw [roundShift, roundShift, Nat.mul_div_cancel_left _ hd, Nat.div_one]
  rw [roundMag_eq, roundMag_eq, roundSig, roundSig, hshift, divNearest_mul_mul_left _ _ hd, one_mul]

theorem bits_fround (neg : Bool) (n d : Nat) : (fround neg n d).toNat % 2 ^ 63 = roundMag n d := by
  have h := roundMag_lt n d
  rw [fround, toNat_fpack neg h]
  split <;> omega

theorem ftotal_fround_le {neg : Bool} {n n' d : Nat} (hd : 0 < d) (h : neg = true ∨ n ≤ n') :
    ftotal (fround neg n d) ≤ ftotal (fround false n' d) := by
  simp only [ftotal_eq, bits_fround, fsign_fround, Bool.false_eq_true, if_false]
  split
  · omega
  · next hpos => exact_mod_cast roundMag_mono hd (h.resolve_left hpos)

/-! ## Differences and quotients in R15's order -/

theorem fisFinite_iff {a : F64} : fisFinite a = true ↔ fisNaN a = false ∧ fisInf a = false := by
  simp [fisFinite, fisNaN, fisInf]
  tauto

section
variable {a b : F64}

theorem fisFinite_of_fadd (h : fisFinite (fadd a b) = true) :
    fisFinite a = true ∧ fisFinite b = true := by
  unfold fadd at h
  split_ifs at h with hnan ha hsigns hb
  · exact absurd h (by decide)
  · exact absurd h (by decide)
  · rw [fisInf_of_finite h] at ha
    cases ha
  · rw [fisInf_of_finite h] at hb
    cases hb
  · rw [Bool.or_eq_true, not_or, Bool.not_eq_true, Bool.not_eq_true] at hnan
    rw [Bool.not_eq_true] at ha hb
    exact ⟨fisFinite_iff.2 ⟨hnan.1, ha⟩, fisFinite_iff.2 ⟨hnan.2, hb⟩⟩

variable (h : fisFinite (fsub a b) = true)
include h

theorem fisFinite_of_fsub : fisFinite a = true ∧ fisFinite b = true := by
  rw [← fisFinite_fneg b]
  exact fisFinite_of_fadd h

theorem fsub_of_finite :
    fsub a b =
      fround (sumSign a (fneg b) (funits a - funits b)) (funits a - funits b).natAbs 1 := by
  obtain ⟨ha, hb⟩ := fisFinite_of_fsub h
  rw [fsub, fadd_of_finite ha (by rwa [fisFinite_fneg]), funits_fneg, ← sub_eq_add_neg]

/-- A difference of at most `n` units is at most what `n` units round to; a zero one, of either sign, is at
most +0.0. -/
theorem ftotal_fsub_le {n : Nat} (hle : funits a - funits b ≤ n) :
    ftotal (fsub a b) ≤ ftotal (fround false n 1) := by
  rw [fsub_of_finite h]
  refine ftotal_fround_le Nat.one_pos ?_
  rcases lt_or_ge (funits a - funits b) 0 with hneg | hpos
  · exact .inl (by rw [sumSign, if_neg hneg.ne, decide_eq_true hneg])
  · exact .inr (by omega)

theorem fsub_of_lt (hlt : funits b < funits a) :
    fsub a b = fround false (funits a - funits b).natAbs 1 := by
  have hpos : 0 < funits a - funits b := sub_pos.2 hlt
  rw [fsub_of_finite h, sumSign, if_neg hpos.ne', decide_eq_false hpos.not_gt]

/-- A positive difference does not round to zero: the least one is a value itself. -/
theorem fsub_positive (hlt : funits b < funits a) :
    fsign (fsub a b) = false ∧ 0 < fmag (fsub a b) := by
  rw [fsub_of_lt h hlt]
  refine ⟨fsign_fround .., Nat.pos_of_ne_zero fun hzero => ?_⟩
  rw [fmag_eq_zero_iff, bits_fround] at hzero
  have hmono := roundMag_mono Nat.one_pos (show 1 ≤ (funits a - funits b).natAbs by omega)
  rw [hzero, show roundMag 1 1 = 1 by decide +kernel] at hmono
  omega

end

section
variable {q : F64} (hq : fisFinite q = true) (hpos : 0 < fmag q)
include hq hpos

theorem fdiv_self : fdiv q q = fone := by
  rw [fdiv_of_finite hq hq (fisZero_eq_false_of_fmag_pos hpos), bne_self_eq_false, fround,
    roundMag_mul_left _ hpos]
  decide +kernel

variable (hs : fsign q = false)
include hs

theorem fzero_fdiv : fdiv fzero q = fzero := by
  rw [fdiv_of_finite (by decide) hq (fisZero_eq_false_of_fmag_pos hpos), hs,
    show fmag fzero = 0 by decide, Nat.zero_mul, fround_zero]
  decide

/-- A quotient by a positive value grows with its numerator. -/
theorem ftotal_fdiv_le {a b : F64} (ha : fisFinite a = true) (hb : fisFinite b = true)
    (hbs : fsign b = false) (h : ftotal a ≤ ftotal b) : ftotal (fdiv a q) ≤ ftotal (fdiv b q) := by
  have hzero := fisZero_eq_false_of_fmag_pos hpos
  rw [fdiv_of_finite ha hq hzero, fdiv_of_finite hb hq hzero, hs, hbs]
  refine ftotal_fround_le hpos ?_
  cases has : fsign a
  · simp only [ftotal_eq, has, hbs, Bool.false_eq_true, if_false, Nat.cast_le] at h
    exact .inr (Nat.mul_le_mul_right _ (fmag_le_of_bits_le h))
  · exact .inl rfl

end

theorem fisNaN_fmin {a b : F64} (ha : fisNaN a = false) (hb : fisNaN b = false) :
    fisNaN (fmin a b) = false := by
  rcases fmin_eq_or ha hb with h | h <;> rwa [h]

end Sys2Proof.Machine

/-! SUPPORT. The mel filter bank MEL_BUILD and its triangles (R220, R226, R228, R229). -/

namespace Sys2Proof.Machine

/-! ## What MEL_BUILD writes (R220) -/

theorem getD_melMatrix (c : ConfigRegs) {m f : Nat} {z : F64} (hm : m < c.melNfilt.toNat)
    (hf : f < c.melNbins.toNat) :
    (melMatrix c).getD (m * c.melNbins.toNat + f) z
      = melWeight (melNorm c) (melPoints c) (melBins c) m f :=
  getD_flatMap_map _ _ (melWeight (melNorm c) (melPoints c) (melBins c)) z hm hf

/-- Settles O16: phase 3 of MEL_BUILD writes the matrix row by row at MEL_DST, NaNs settled. -/
theorem melBuildWritesTheMatrix : Obligations.MelBuildWritesTheMatrix := by
  rintro s nb nf rfl rfl hce
  have hphase : Phase3 s .melBuild _ := .melBuild
  refine ⟨_, exec_melBuild_ok hce, fun m hm f hf => ?_, hphase.bytesKeptOutside, hphase.succeeded,
    hphase.planKept nofun, hphase.shapeKept nofun, hphase.hostSideKept⟩
  have hlen : m * s.snap.melNbins.toNat + f < (melMatrix s.snap).length := by
    rw [length_melMatrix]
    calc m * s.snap.melNbins.toNat + f < (m + 1) * s.snap.melNbins.toNat := by
          rw [Nat.succ_mul]; omega
      _ ≤ s.snap.melNfilt.toNat * s.snap.melNbins.toNat := Nat.mul_le_mul_right _ hm
  rw [← getD_melMatrix s.snap hm hf (z := fzero), Nat.add_assoc]
  exact engineWrite_readWord s _ _ hlen

/-! ## The edges of a triangle (R226) -/

/-- A difference over a difference, as each edge of R226's triangle is. -/
def triEdge (a b c d : F64) : F64 := fdiv (fsub a b) (fsub c d)

/-- R226: the rising edge and the falling edge of a triangle, clamped from below. -/
theorem triWeight_eq (x left center right : F64) :
    triWeight x left center right
      = fmax fzero (fmin (triEdge x left center left) (triEdge right x right center)) := rfl

section
variable {a b c d : F64} (hnum : fisFinite (fsub a b) = true) (hden : fisFinite (fsub c d) = true)
  (hlt : funits d < funits c)
include hden hlt

/-- R229: an edge whose two differences are the same is 1.0, with no rounding error. -/
theorem triEdge_self : triEdge c d c d = fone :=
  fdiv_self hden (fsub_positive hden hlt).2

include hnum

theorem fisNaN_triEdge : fisNaN (triEdge a b c d) = false := by
  obtain ⟨-, hpos⟩ := fsub_positive hden hlt
  rw [triEdge, fdiv_of_finite hnum hden (fisZero_eq_false_of_fmag_pos hpos), fisNaN_fround]

/-- R228: an edge does not rise above +0.0 before it begins. -/
theorem triEdge_le_zero (h : funits a ≤ funits b) : ftotal (triEdge a b c d) ≤ ftotal fzero := by
  obtain ⟨hs, hpos⟩ := fsub_positive hden hlt
  have hle : ftotal (fsub a b) ≤ ftotal fzero :=
    ftotal_fsub_le hnum (n := 0) (by omega)
  exact (ftotal_fdiv_le hden hpos hs hnum (by decide) (by decide) hle).trans_eq
    (congrArg ftotal (fzero_fdiv hden hpos hs))

/-- R229: an edge is at most 1.0 up to the centre. -/
theorem triEdge_le_one (h : funits a - funits b ≤ funits c - funits d) :
    ftotal (triEdge a b c d) ≤ ftotal fone := by
  obtain ⟨hs, hpos⟩ := fsub_positive hden hlt
  have hle : ftotal (fsub a b) ≤ ftotal (fsub c d) := by
    rw [fsub_of_lt hden hlt]
    exact ftotal_fsub_le hnum (by omega)
  exact (ftotal_fdiv_le hden hpos hs hnum hden hs hle).trans_eq
    (congrArg ftotal (fdiv_self hden hpos))

end

/-! ## Support and peak (R228, R229) -/

/-- Settles O57: outside the points one edge is not above +0.0, on either side of the centre one is not above
1.0, and at the centre both are 1.0. -/
theorem melTriangleHasItsSupportAndPeak : Obligations.MelTriangleHasItsSupportAndPeak := by
  intro x left center right hlc hcr hcl hrc hxl hrx
  have hrise := funits_lt_of_flt hlc
  have hfall := funits_lt_of_flt hcr
  have hdown := fisNaN_triEdge hxl hcl hrise
  have hup := fisNaN_triEdge hrx hrc hfall
  have hzero : fisNaN fzero = false := by decide
  have hmin := fisNaN_fmin hdown hup
  have htotal := ftotal_fmax hzero hmin
  rw [ftotal_fmin hdown hup] at htotal
  simp only [triWeight_eq]
  refine ⟨fun hout => ftotal_injective ?_, (fle_fmax hzero hmin).1,
    fle_of_ftotal_le (fisNaN_fmax hzero hmin) (by decide) ?_, ?_⟩
  · rcases hout with hx | hx
    · have := triEdge_le_zero hxl hcl hrise (funits_le_of_fle hx)
      omega
    · have := triEdge_le_zero hrx hrc hfall (funits_le_of_fle hx)
      omega
  · have hone : ftotal fzero ≤ ftotal fone := by decide
    rcases le_total (funits x) (funits center) with hx | hx
    · have := triEdge_le_one hxl hcl hrise (by omega)
      omega
    · have := triEdge_le_one hrx hrc hfall (by omega)
      omega
  · rintro rfl
    rw [triEdge_self hcl hrise, triEdge_self hrc hfall]
    decide

end Sys2Proof.Machine

/-! SUPPORT. The shape of a spectrogram, the reflection of its padding, and its checks (R252 to R256, R313). -/

namespace Sys2Proof.Machine

variable {s : State} {o : SgOps}

/-! ## Frame counts (R256) -/

/-- The floor division of R256 in natural numbers: a waveform shorter than one frame has none. -/
theorem sgRawFrames_eq (hhop : 0 < o.hop) :
    sgRawFrames o = if o.fl ≤ sgPadded o then 1 + (sgPadded o - o.fl) / o.hop else 0 := by
  rw [sgRawFrames, Int.fdiv_eq_ediv_of_nonneg _ (Int.natCast_nonneg _)]
  split
  · next hle =>
    rw [← Nat.cast_sub hle, ← Int.natCast_ediv, ← Nat.cast_one, ← Nat.cast_add, Int.toNat_natCast]
  · next hlt =>
    have hneg : ((sgPadded o : Int) - o.fl) / o.hop < 0 :=
      Int.ediv_neg_of_neg_of_pos (by omega) (by omega)
    omega

theorem sgCompCount_le_sgOutCount (o : SgOps) : sgCompCount o ≤ sgOutCount o := by
  simp only [sgOutCount, Bool.and_eq_true, decide_eq_true_eq]
  split
  · next h => exact h.2.le
  · exact le_rfl

theorem clampUp_eq (en : Bool) (c lo : Nat) :
    (if en then max c lo else c) = if en = true ∧ c < lo then lo else c := by
  cases en with
  | false => simp
  | true => simp [max_def_lt]

theorem clampDown_eq (en : Bool) (c hi : Nat) :
    (if en then min c hi else c) = if en = true ∧ hi < c then hi else c := by
  cases en with
  | false => simp
  | true => simp [min_comm c, min_def_lt]

/-- Settles O58: the floor in natural numbers, then the clamp up, the clamp down and the padding. -/
theorem frameCountsFollowTheFormula : Obligations.FrameCountsFollowTheFormula := by
  refine ⟨fun o hhop => ⟨?_, ?_, sgCompCount_le_sgOutCount o⟩,
    fun o hlen hfl hhop hcenter hmin hmax => ?_⟩
  · simp only [sgCompCount, clampUp_eq, clampDown_eq, sgRawFrames_eq hhop]
  · simp only [sgOutCount, sgCompCount, clampUp_eq, clampDown_eq, sgRawFrames_eq hhop,
      Bool.and_eq_true, decide_eq_true_eq, and_assoc]
  · have hpadded : sgPadded o = 16000 := by simp [sgPadded, sgPad, hcenter, hlen]
    have hraw : sgRawFrames o = 98 := by
      rw [sgRawFrames_eq (by omega), hpadded, hfl, hhop]
      decide
    simp [sgOutCount, sgCompCount, hmin, hmax, hraw]

/-! ## Reflection (R255) -/

/-- For L ≥ 2 the reflection is decided by the index mod 2(L-1): the first L residues rise, the rest fall. -/
theorem reflIndex_eq_emod (i : Int) {len : Nat} (hlen : 2 ≤ len) :
    (reflIndex i len : Int) =
      if i % (2 * (len - 1)) < len then i % (2 * (len - 1))
      else 2 * (len - 1) - i % (2 * (len - 1)) := by
  have hlo : 0 ≤ i % (2 * ((len : Int) - 1)) := Int.emod_nonneg _ (by omega)
  have hhi : i % (2 * ((len : Int) - 1)) < 2 * (len - 1) := Int.emod_lt_of_pos _ (by omega)
  rw [reflIndex, Int.fmod_eq_emod_of_nonneg _ (by omega)]
  split
  · next hin =>
    rw [Int.emod_eq_of_lt hin.1 (by omega), if_pos hin.2, Int.toNat_of_nonneg hin.1]
  · rw [if_neg (by omega)]
    simp only
    generalize i % (2 * ((len : Int) - 1)) = q at *
    split_ifs <;> omega

theorem reflIndex_of_inside {i : Int} {len : Nat} (hlo : 0 ≤ i) (hhi : i < len) :
    reflIndex i len = i.toNat := by
  rw [reflIndex, if_pos ⟨hlo, hhi⟩]

theorem reflIndex_one (i : Int) : reflIndex i 1 = 0 := by
  rw [reflIndex]
  split
  · omega
  · rfl

section
variable {len k : Nat} (hlen : 2 ≤ len) (hk : k < len)
include hlen

theorem reflIndex_lt (i : Int) : reflIndex i len < len := by
  have h := reflIndex_eq_emod i hlen
  have hlo : 0 ≤ i % (2 * ((len : Int) - 1)) := Int.emod_nonneg _ (by omega)
  generalize i % (2 * ((len : Int) - 1)) = q at *
  split at h <;> omega

theorem reflIndex_add_period (i : Int) :
    reflIndex (i + 2 * ((len : Int) - 1)) len = reflIndex i len := by
  rw [← Nat.cast_inj (R := Int), reflIndex_eq_emod _ hlen, reflIndex_eq_emod _ hlen,
    Int.add_emod_right]

include hk

/-- Past the right edge the samples come back from the one before the last. -/
theorem reflIndex_right : reflIndex ((len : Int) - 1 + k) len = len - 1 - k := by
  have h := reflIndex_eq_emod ((len : Int) - 1 + k) hlen
  rcases Nat.lt_or_ge (k + 1) len with hlt | hge
  · rw [Int.emod_eq_of_lt (by omega) (by omega)] at h
    split at h <;> omega
  · rw [show (len : Int) - 1 + k = 2 * (len - 1) by omega, Int.emod_self] at h
    rw [show (len : Int) - 1 + k = 2 * (len - 1) by omega]
    omega

/-- One period further on, the left edge mirrors as the right one. -/
theorem reflIndex_left : reflIndex (-(k : Int)) len = k := by
  have h := reflIndex_right hlen (k := len - 1 - k) (by omega)
  rw [show (len : Int) - 1 + (len - 1 - k : Nat) = -(k : Int) + 2 * ((len : Int) - 1) by omega,
    reflIndex_add_period hlen] at h
  omega

end

/-- Settles O59: both mirrors and the period come from the index mod 2(L-1). -/
theorem reflectionMirrorsWithoutTheEdge : Obligations.ReflectionMirrorsWithoutTheEdge :=
  ⟨reflIndex_one, fun _ hlen =>
    ⟨fun k hk => ⟨reflIndex_of_inside (Int.natCast_nonneg k) (Int.ofNat_lt.2 hk),
      reflIndex_left hlen hk, reflIndex_right hlen hk⟩,
    fun i => ⟨reflIndex_add_period hlen i, reflIndex_lt hlen i⟩⟩⟩

/-! ## The checks (R252, R254, R313) -/

theorem sgRange_iff {p : Params} :
    anyOutOfRange p (sgReads o ++ [sgWrites o]) = true ↔
      ∃ iv ∈ sgReads o ++ [sgWrites o], 0 < iv.len ∧ dmemWords p < iv.start + iv.len := by
  simp only [anyOutOfRange_iff, outOfRange_iff, Nat.pos_iff_ne_zero]

theorem sgAlias_iff :
    anyAlias (sgReads o) (sgWrites o) = true ↔
      ∃ iv ∈ sgReads o, 0 < iv.len ∧ 0 < (sgWrites o).len ∧
        iv.start < (sgWrites o).start + (sgWrites o).len ∧
        (sgWrites o).start < iv.start + iv.len := by
  simp only [anyAlias_iff, overlaps_iff, Nat.pos_iff_ne_zero]
  exact exists_congr fun iv => and_congr_right fun _ => by tauto

/-- Settles O25: the two lists of checks in order, each condition in the words of its rule; what is left for
`congr` is how the conditions are decided. -/
theorem spectrogramErrorsInOrder : Obligations.SpectrogramErrorsInOrder := by
  rintro s o rfl
  simp only [commandError, sgError, sgConfigChecks, sgBufferChecks, List.cons_append,
    List.nil_append, firstError_cons, firstError_nil, sgRange_iff, sgAlias_iff, planLen,
    Bool.and_eq_true, Bool.or_eq_true, Bool.not_eq_true', beq_iff_eq, bne_iff_ne,
    decide_eq_true_eq, Option.isNone_iff_eq_none, and_assoc, or_assoc, ne_eq]
  congr

end Sys2Proof.Machine

/-! SUPPORT. The range clip in dB: subtracting a positive value does not raise a value, rounding included
(R10, R267, R273). -/

namespace Sys2Proof.Machine

variable {a d v dbr : F64} {vs : List F64} {ys : List (List F64)}

/-! ## A difference is at most its minuend (R10) -/

/-- A finite value is its own rounding. -/
theorem roundMag_fmag (ha : fisFinite a = true) : roundMag (fmag a) 1 = a.toNat % 2 ^ 63 := by
  have hlt : fmag a < overflowUnits * 1 := by
    rw [Nat.mul_one]
    exact fmag_lt_overflowUnits ha
  have hround : fmag (fround false (fmag a) 1) = fmag a := by
    rw [fmag_fround false Nat.one_pos hlt]
    refine roundSig_mul_of_dvd ?_
    rcases dvd_fmag_or_lt a (roundShift (fmag a) 1) with hdvd | hlow
    · exact hdvd
    · rcases Nat.eq_zero_or_pos (roundShift (fmag a) 1) with hzero | hpos
      · simp [hzero]
      · have := le_of_roundShift_pos Nat.one_pos hpos
        omega
  rw [← bits_fround false]
  exact le_antisymm (fmag_le_iff_bits_le.1 hround.le) (fmag_le_iff_bits_le.1 hround.ge)

theorem fsign_of_zero_flt (h : flt fzero a = true) : fsign a = false := by
  have hlt := funits_lt_of_flt h
  rw [show funits fzero = 0 by decide] at hlt
  rw [Bool.eq_false_iff]
  intro hs
  rw [funits_of_neg hs] at hlt
  omega

section
variable (hd : fisFinite d = true) (hs : fsign d = false)
include hd

theorem fsub_eq_fround (ha : fisFinite a = true) :
    fsub a d =
      fround (sumSign a (fneg d) (funits a - funits d)) (funits a - funits d).natAbs 1 := by
  rw [fsub, fadd_of_finite ha (by rwa [fisFinite_fneg]), funits_fneg, ← sub_eq_add_neg]

theorem fsub_of_isInf (hn : fisNaN a = false) (hinf : fisInf a = true) : fsub a d = a := by
  have hd' : fisFinite (fneg d) = true := by rwa [fisFinite_fneg]
  simp [fsub, fadd, hn, hinf, fisNaN_of_finite hd', fisInf_of_finite hd']

theorem fisNaN_fsub_of_finite (hn : fisNaN a = false) : fisNaN (fsub a d) = false := by
  cases hinf : fisInf a with
  | true => rwa [fsub_of_isInf hd hn hinf]
  | false => rw [fsub_eq_fround hd (fisFinite_iff.2 ⟨hn, hinf⟩), fisNaN_fround]

include hs

/-- A negative minuend grows in magnitude; a positive one shrinks, or the difference is negative. -/
theorem ftotal_fsub_le_left (hn : fisNaN a = false) : ftotal (fsub a d) ≤ ftotal a := by
  cases hinf : fisInf a with
  | true => rw [fsub_of_isInf hd hn hinf]
  | false =>
    have ha := fisFinite_iff.2 ⟨hn, hinf⟩
    have hself := roundMag_fmag ha
    rw [fsub_eq_fround hd ha, funits_of_pos hs, ftotal_eq, ftotal_eq, bits_fround, fsign_fround,
      ← hself]
    cases hsa : fsign a with
    | true =>
      have hneg : sumSign a (fneg d) (funits a - fmag d) = true := by
        rw [sumSign, hsa, fsign_fneg, hs, funits_of_neg hsa]
        split
        · rfl
        · exact decide_eq_true (by omega)
      have hmono := roundMag_mono Nat.one_pos
        (show fmag a ≤ (funits a - fmag d).natAbs by rw [funits_of_neg hsa]; omega)
      simp only [hneg, if_true]
      omega
    | false =>
      simp only [Bool.false_eq_true, if_false]
      split
      · omega
      · next hpos =>
        have hge : (fmag d : Int) ≤ fmag a := by
          rw [sumSign, hsa, funits_of_pos hsa] at hpos
          split at hpos
          · omega
          · simpa using hpos
        exact_mod_cast roundMag_mono Nat.one_pos
          (show (funits a - fmag d).natAbs ≤ fmag a by rw [funits_of_pos hsa]; omega)

end

/-! ## The clip (R267, R273) -/

/-- The clip raises every value to the greatest one less the range. -/
theorem flatten_dbRangeClip (dbr : F64) (h : ys.flatten = v :: vs) :
    (dbRangeClip dbr ys).flatten = (v :: vs).map (fmax (fsub (maxseq v vs) dbr)) := by
  simp only [dbRangeClip, h]
  rw [← h, List.map_flatten]

/-- Settles O60: the threshold is at most the greatest value, which therefore stays and bounds them all. -/
theorem dbRangeBoundsTheOutput : Obligations.DbRangeBoundsTheOutput := by
  intro dbr v vs ys hfin hpos hys hnan
  obtain ⟨hmem, hmax⟩ := maxseq_greatest v vs hnan
  have hmx := hnan _ hmem
  have hthr := fisNaN_fsub_of_finite hfin hmx
  have hle := ftotal_fsub_le_left hfin (fsign_of_zero_flt hpos) hmx
  rw [flatten_dbRangeClip dbr hys]
  refine ⟨List.mem_map.2 ⟨_, hmem, ftotal_injective ?_⟩, List.forall_mem_map.2 fun x hx => ?_⟩
  · rw [ftotal_fmax hthr hmx, max_eq_right hle]
  · refine ⟨(fle_fmax hthr (hnan x hx)).1,
      fle_of_ftotal_le (fisNaN_fmax hthr (hnan x hx)) hmx ?_⟩
    rw [ftotal_fmax hthr (hnan x hx)]
    exact max_le hle (hmax x hx)

end Sys2Proof.Machine

/-! SUPPORT. What SPECTROGRAM writes and where, and the shape it reports (R253, R268 to R270). -/

namespace Sys2Proof.Machine

variable {s : State} {o : SgOps}

/-! ## The order of the output words (R268, R269) -/

theorem getD_map_of_lt {α β : Type} {l : List α} {i : Nat} (g : α → β) {d : β} (e : α)
    (h : i < l.length) : (l.map g).getD i d = g (l.getD i e) := by
  simp [List.getD, h]

/-- Entry (i, j) of an m by n table stands inside it. -/
theorem rowMajor_lt {i j m n : Nat} (hi : i < m) (hj : j < n) : i * n + j < m * n := by
  have hle := Nat.mul_le_mul_right n (Nat.succ_le_of_lt hi)
  rw [Nat.succ_mul] at hle
  omega

section
variable {r f pos : Nat} (hr : r < sgRows o) (hf : f < sgOutCount o)
  (hpos : pos = if o.transpose then f * sgRows o + r else r * sgOutCount o + f)
include hr hf hpos

theorem outputPos_lt : pos < sgRows o * sgOutCount o := by
  rw [hpos]
  split
  · rw [Nat.mul_comm (sgRows o) (sgOutCount o)]
    exact rowMajor_lt hf hr
  · exact rowMajor_lt hr hf

theorem getD_map_outputOrder {α : Type} (g : Nat × Nat → α) (z : α) :
    ((outputOrder o).map g).getD pos z = g (f, r) := by
  rw [getD_map_of_lt g (0, 0) (by rw [length_outputOrder]; exact outputPos_lt hr hf hpos), hpos,
    getD_outputOrder o hr hf]

variable (rule : PowerExpRule) (p : Plan) (x win mel : List F64)

theorem getD_spectrogramWords_real (hen : o.powerEn = true) :
    (spectrogramWords rule o p x win mel).getD pos fzero
      = ((realColumns rule o p x win mel).getD f []).getD r fzero := by
  rw [spectrogramWords, if_pos hen, getD_map_outputOrder hr hf hpos]

theorem getD_spectrogramWords_complex (hen : o.powerEn = false) :
    (spectrogramWords rule o p x win mel).getD (2 * pos) fzero
      = (((complexColumns o p x win).getD f []).getD r czero).re ∧
    (spectrogramWords rule o p x win mel).getD (2 * pos + 1) fzero
      = (((complexColumns o p x win).getD f []).getD r czero).im := by
  rw [spectrogramWords, if_neg (Bool.eq_false_iff.1 hen), (getD_ofComplex _ pos).1,
    (getD_ofComplex _ pos).2, getD_map_outputOrder hr hf hpos]
  exact ⟨rfl, rfl⟩

end

theorem sgOutWords_real (hen : o.powerEn = true) : sgOutWords o = sgRows o * sgOutCount o := by
  rw [sgOutWords, if_pos hen, Nat.mul_one]

theorem sgOutWords_complex (hen : o.powerEn = false) :
    sgOutWords o = 2 * (sgRows o * sgOutCount o) := by
  rw [sgOutWords, if_neg (Bool.eq_false_iff.1 hen), Nat.mul_comm]

/-! ## The shape fits its registers (R252 to R254, R270) -/

theorem sgRows_lt (c : ConfigRegs) : sgRows (sgOps c) < 2 ^ 32 := by
  have hmr : (sgOps c).mr < 2 ^ 32 := c.sgMelRows.isLt
  have hnfft : (sgOps c).nfft < 2 ^ 32 := c.sgFftLen.isLt
  unfold sgRows sgBins
  split
  · exact hmr
  · split <;> omega

/-- Check 1 of R252 gives a spectrum of at least one bin, and check 11 a mel matrix of at least one row. -/
theorem sgRows_pos (hce : commandError .spectrogram s = none) : 0 < sgRows (sgOps s.snap) := by
  have hlen := firstError_eq_none.1 hce
    ((sgOps s.snap).fl == 0 || decide ((sgOps s.snap).nfft < (sgOps s.snap).fl), .frameLen)
    (by simp [sgConfigChecks])
  have hmel := firstError_eq_none.1 hce
    ((sgOps s.snap).melEn && ((sgOps s.snap).mr == 0 || (sgOps s.snap).mc != sgBins (sgOps s.snap)),
      .melMismatch) (by simp [sgConfigChecks])
  simp only [Bool.and_eq_false_iff, Bool.or_eq_false_iff, beq_eq_false_iff_ne,
    decide_eq_false_iff_not] at hlen hmel
  unfold sgRows sgBins
  split
  · next hen =>
    obtain ⟨hmr, -⟩ := hmel.resolve_left (by simp [hen])
    omega
  · split <;> omega

/-- The output lies in DMEM (R254), and a row of it has T_out values. -/
theorem sgOutCount_le (hce : commandError .spectrogram s = none) :
    sgOutCount (sgOps s.snap) ≤ dmemWords s.params := by
  have hrows := sgRows_pos hce
  have hrange := mt outOfRange_iff.2 (Bool.eq_false_iff.1 (checkedSpan_in_range hce))
  have hword : 1 ≤ if (sgOps s.snap).powerEn then 1 else 2 := by split <;> decide
  have hle : sgOutCount (sgOps s.snap) ≤ sgOutWords (sgOps s.snap) :=
    (Nat.le_mul_of_pos_left _ hrows).trans (Nat.le_mul_of_pos_right _ hword)
  simp only [checkedSpan, writeSpan, sgWrites] at hrange
  omega

theorem dmemWords_lt {p : Params} (hp : p.Legal) : dmemWords p < 2 ^ 32 := by
  obtain ⟨-, haw, -⟩ := hp
  exact (Nat.pow_le_pow_right Nat.two_pos haw).trans_lt (by decide)

theorem toNat_ofNat_of_lt {n : Nat} (h : n < 2 ^ 32) : (BitVec.ofNat 32 n).toNat = n :=
  (BitVec.toNat_ofNat ..).trans (Nat.mod_eq_of_lt h)

/-- Settles O17: phase 3 of SPECTROGRAM writes the words in R268's order, and DMEM holds no more frames than
its registers count. -/
theorem spectrogramWritesItsOutput : Obligations.SpectrogramWritesItsOutput := by
  rintro s p o x win mel hlegal hp rfl hce hx hw hm
  have hphase := Phase3.spectrogram p x win mel hp hx hw hm
  have hout := (sgOutCount_le hce).trans_lt (dmemWords_lt hlegal)
  have hcomp := (sgCompCount_le_sgOutCount (sgOps s.snap)).trans_lt hout
  have hlen : (sgResult s p x win mel).length = sgOutWords (sgOps s.snap) :=
    length_spectrogramWords ..
  refine ⟨_, exec_spectrogram_ok hce hp hx hw hm,
    fun r hr f hf pos hpos => ⟨fun hen => ?_, fun hen => ?_⟩, toNat_ofNat_of_lt (sgRows_lt s.snap),
    toNat_ofNat_of_lt hout, toNat_ofNat_of_lt hcomp, hphase.bytesKeptOutside, hphase.succeeded,
    hphase.planKept nofun, hphase.hostSideKept⟩
  · rw [sgOutWords_real hen] at hlen
    rw [← getD_spectrogramWords_real hr hf hpos _ p x win mel hen]
    exact engineWrite_readWord s _ pos (hlen ▸ outputPos_lt hr hf hpos)
  · rw [sgOutWords_complex hen] at hlen
    obtain ⟨hre, him⟩ :=
      getD_spectrogramWords_complex hr hf hpos s.params.powerExpRule p x win mel hen
    have hlt := outputPos_lt hr hf hpos
    rw [← hre, ← him]
    exact ⟨engineWrite_readWord s _ (2 * pos) (by omega),
      engineWrite_readWord s _ (2 * pos + 1) (by omega)⟩

end Sys2Proof.Machine

/-! SUPPORT. Zeros of either sign under the arithmetic (R10), and a property of the values that the
power-of-two datapath keeps (R162 to R167). -/

namespace Sys2Proof.Machine

variable {a b v : F64}

/-! ## Zeros of either sign (R10) -/

theorem fisZero_fzero : fisZero fzero = true := by decide

theorem fisFinite_of_isZero (h : fisZero a = true) : fisFinite a = true := by
  rcases fisZero_iff.1 h with rfl | rfl <;> decide

theorem fmag_of_isZero (h : fisZero a = true) : fmag a = 0 := by
  rcases fisZero_iff.1 h with rfl | rfl <;> decide

theorem fisZero_fneg (a : F64) : fisZero (fneg a) = fisZero a := by
  simp [fisZero]

theorem fisZero_fround_zero (neg : Bool) (d : Nat) : fisZero (fround neg 0 d) = true := by
  rw [fround_zero]
  cases neg <;> decide

theorem fisZero_fadd (ha : fisZero a = true) (hb : fisZero b = true) :
    fisZero (fadd a b) = true := by
  have hsum : funits a + funits b = 0 := by
    simp [funits, fmag_of_isZero ha, fmag_of_isZero hb]
  rw [fadd_of_finite (fisFinite_of_isZero ha) (fisFinite_of_isZero hb), hsum]
  exact fisZero_fround_zero _ _

theorem fisZero_fsub (ha : fisZero a = true) (hb : fisZero b = true) :
    fisZero (fsub a b) = true :=
  fisZero_fadd ha (by rwa [fisZero_fneg])

theorem fisZero_fmul_left (ha : fisZero a = true) (hb : fisFinite b = true) :
    fisZero (fmul a b) = true := by
  rw [fmul_of_finite (fisFinite_of_isZero ha) hb, fmag_of_isZero ha, Nat.zero_mul]
  exact fisZero_fround_zero _ _

theorem fisZero_fmul_right (ha : fisFinite a = true) (hb : fisZero b = true) :
    fisZero (fmul a b) = true := by
  rw [fmul_of_finite ha (fisFinite_of_isZero hb), fmag_of_isZero hb, Nat.mul_zero]
  exact fisZero_fround_zero _ _

theorem fmul_self_of_isZero (h : fisZero a = true) : fmul a a = fzero := by
  rcases fisZero_iff.1 h with rfl | rfl <;> decide +kernel

theorem fzero_fadd_of_isZero (h : fisZero a = true) : fadd fzero a = fzero := by
  rcases fisZero_iff.1 h with rfl | rfl <;> decide +kernel

theorem foldl_fadd_of_isZero {l : List F64} (h : ∀ v ∈ l, fisZero v = true) :
    l.foldl fadd fzero = fzero := by
  induction l with
  | nil => rfl
  | cons v vs ih =>
    rw [List.foldl_cons, fzero_fadd_of_isZero (h v List.mem_cons_self)]
    exact ih fun w hw => h w (List.mem_cons_of_mem v hw)

/-- A finite magnitude near the overflow midpoint is a multiple of 2 ^ 2044, and so stays that far below it. -/
theorem fmag_add_le_overflowUnits (ha : fisFinite a = true) : fmag a + 2 ^ 2044 ≤ overflowUnits := by
  have hlt := fmag_lt_overflowUnits ha
  rcases dvd_fmag_or_lt a 2044 with ⟨j, hj⟩ | hlow
  · rw [hj, overflowUnits, Nat.mul_comm] at hlt
    rw [hj, overflowUnits, Nat.mul_comm, ← Nat.succ_mul]
    exact Nat.mul_le_mul_right _ (Nat.lt_of_mul_lt_mul_right hlt)
  · rw [pow_add] at hlow
    rw [overflowUnits]
    omega

theorem fisFinite_fone_fsub (ha : fisFinite a = true) : fisFinite (fsub fone a) = true := by
  have hgap := fmag_add_le_overflowUnits ha
  have hpow : unitsPerOne < 2 ^ 2044 := pow_lt_pow_right₀ one_lt_two (by decide)
  have hone : funits fone = unitsPerOne := by rw [funits_of_pos (by decide), fmag_fone]
  rw [fsub_eq_fround ha (by decide)]
  refine fisFinite_fround _ Nat.one_pos ?_
  rcases funits_eq_or_neg a with h | h <;> omega

/-! ## Values of a property under the datapath -/

theorem forall_getD {C : Type} {P : C → Prop} {l : List C} {z : C} (h : ∀ c ∈ l, P c) (hz : P z)
    (i : Nat) : P (l.getD i z) := by
  rcases Nat.lt_or_ge i l.length with hi | hi
  · rw [List.getD_eq_getElem l z hi]
    exact h _ (List.getElem_mem hi)
  · rwa [List.getD_eq_default l z hi]

theorem forall_mem_set {C : Type} {P : C → Prop} {l : List C} {v : C} (h : ∀ c ∈ l, P c) (hv : P v)
    (i : Nat) : ∀ c ∈ l.set i v, P c := fun c hc =>
  (List.mem_or_eq_of_mem_set hc).elim (h c) fun e => e ▸ hv

theorem forall_mem_foldl {C : Type} {P : C → Prop} {f : List C → Nat → List C}
    (hf : ∀ l k, (∀ c ∈ l, P c) → ∀ c ∈ f l k, P c) {l : List C} (h : ∀ c ∈ l, P c)
    (ks : List Nat) : ∀ c ∈ ks.foldl f l, P c := by
  induction ks generalizing l with
  | nil => exact h
  | cons k ks ih => exact ih (hf l k h)

/-- The values of `P` are kept by the datapath's operations when the table entries are of `Q`. -/
structure KeptByDatapath {R C : Type} (A : CArith R C) (P Q : C → Prop) : Prop where
  zero : P A.zero
  add : ∀ {a b}, P a → P b → P (A.add a b)
  sub : ∀ {a b}, P a → P b → P (A.sub a b)
  mul : ∀ {a b}, P a → Q b → P (A.mul a b)
  conj : ∀ {a}, P a → P (A.conj a)
  rotNegI : ∀ {a}, P a → P (A.rotNegI a)
  rotPosI : ∀ {a}, P a → P (A.rotPosI a)
  tableZero : Q A.zero
  tableConj : ∀ {b}, Q b → Q (A.conj b)

section
variable {R C : Type} {A : CArith R C} {P Q : C → Prop} (hA : KeptByDatapath A P Q)
  {x tw : List C}
include hA

theorem KeptByDatapath.brevLoad (hx : ∀ c ∈ x, P c) (brev : List Nat) (n : Nat) :
    ∀ c ∈ brevLoad A brev x n, P c :=
  List.forall_mem_map.2 fun _ _ => forall_getD hx hA.zero _

theorem KeptByDatapath.radix2Stage (hx : ∀ c ∈ x, P c) (n : Nat) :
    ∀ c ∈ radix2Stage A x n, P c := by
  refine forall_mem_foldl (fun l m hl => ?_) hx _
  have hget := forall_getD hl hA.zero
  exact forall_mem_set (forall_mem_set hl (hA.add (hget _) (hget _)) _) (hA.sub (hget _) (hget _)) _

variable (htw : ∀ c ∈ tw, Q c)
include htw

theorem KeptByDatapath.twAt (dir : Dir) (t : Nat) : Q (twAt A tw dir t) := by
  have hget := forall_getD htw hA.tableZero t
  cases dir with
  | fwd => exact hget
  | inv => exact hA.tableConj hget

theorem KeptByDatapath.butterfly (hx : ∀ c ∈ x, P c) (dir : Dir) (l st b k : Nat) :
    ∀ c ∈ butterfly A tw dir l st b x k, P c := by
  have hget := forall_getD hx hA.zero
  have hmul (i t : Nat) := hA.mul (hget i) (hA.twAt htw dir t)
  have hsum := hA.add (hget (b + k)) (hmul (b + l + k) (2 * k * st))
  have hdiff := hA.sub (hget (b + k)) (hmul (b + l + k) (2 * k * st))
  have hsum' := hA.add (hmul (b + 2 * l + k) (k * st)) (hmul (b + 3 * l + k) (3 * k * st))
  have hdiff' := hA.sub (hmul (b + 2 * l + k) (k * st)) (hmul (b + 3 * l + k) (3 * k * st))
  refine forall_mem_set (forall_mem_set (forall_mem_set (forall_mem_set hx (hA.add hsum hsum') _)
    (hA.add hdiff ?rot) _) (hA.sub hsum hsum') _) (hA.sub hdiff ?rot) _
  cases dir with
  | fwd => exact hA.rotNegI hdiff'
  | inv => exact hA.rotPosI hdiff'

theorem KeptByDatapath.radix4Stage (hx : ∀ c ∈ x, P c) (dir : Dir) (n l : Nat) :
    ∀ c ∈ radix4Stage A tw dir n l x, P c :=
  forall_mem_foldl (fun _ _ hl =>
    forall_mem_foldl (fun _ k hl' => hA.butterfly htw hl' dir l _ _ k) hl _) hx _

theorem KeptByDatapath.radix4Loop (hx : ∀ c ∈ x, P c) (dir : Dir) (n fuel l : Nat) :
    ∀ c ∈ radix4Loop A tw dir n fuel l x, P c := by
  induction fuel generalizing l x with
  | zero => exact hx
  | succ fuel ih =>
    rw [Machine.radix4Loop]
    split
    · exact ih (hA.radix4Stage htw hx dir n l) (4 * l)
    · exact hx

theorem KeptByDatapath.fftP2 (hx : ∀ c ∈ x, P c) (brev : List Nat) (n : Nat) (dir : Dir) :
    ∀ c ∈ fftP2 A brev tw x n dir, P c := by
  have hload := hA.brevLoad hx brev n
  simp only [Machine.fftP2]
  split
  · exact hA.radix4Loop htw (hA.radix2Stage hload n) dir n _ 2
  · exact hA.radix4Loop htw hload dir n _ 1

theorem KeptByDatapath.realP2 {x : List R} (hx : ∀ r ∈ x, P (A.ofReal r)) (brev : List Nat)
    (n : Nat) : ∀ c ∈ realP2 A brev tw x n, P c := by
  have hget := forall_getD (hA.fftP2 htw (List.forall_mem_map.2 hx) brev n .fwd) hA.zero
  refine List.forall_mem_map.2 fun k _ => ?_
  split
  · exact hA.conj (hget _)
  · exact hget _

end

/-! ## Zeros under a finite twiddle table (R161, R272) -/

/-- Both components are zeros, of either sign. -/
def ComplexIsZero (c : C64) : Prop := fisZero c.re = true ∧ fisZero c.im = true

/-- Both components are finite. -/
def ComplexIsFinite (c : C64) : Prop := fisFinite c.re = true ∧ fisFinite c.im = true

theorem zeros_keptByDatapath : KeptByDatapath f64Arith ComplexIsZero ComplexIsFinite where
  zero := ⟨by decide, by decide⟩
  add ha hb := ⟨fisZero_fadd ha.1 hb.1, fisZero_fadd ha.2 hb.2⟩
  sub ha hb := ⟨fisZero_fsub ha.1 hb.1, fisZero_fsub ha.2 hb.2⟩
  mul ha hb :=
    ⟨fisZero_fsub (fisZero_fmul_left ha.1 hb.1) (fisZero_fmul_left ha.2 hb.2),
      fisZero_fadd (fisZero_fmul_left ha.1 hb.2) (fisZero_fmul_left ha.2 hb.1)⟩
  conj ha := ⟨ha.1, (fisZero_fneg _).trans ha.2⟩
  rotNegI ha := ⟨ha.2, (fisZero_fneg _).trans ha.1⟩
  rotPosI ha := ⟨(fisZero_fneg _).trans ha.2, ha.1⟩
  tableZero := ⟨by decide, by decide⟩
  tableConj hb := ⟨hb.1, (fisFinite_fneg _).trans hb.2⟩

/-- The angle of a twiddle is finite: it is at most 8 t. -/
theorem fisFinite_twiddleAngle {n t : Nat} (hn : 1 ≤ n) (hn' : n ≤ 2 ^ 53) (ht : 8 * t ≤ 2 ^ 53) :
    fisFinite (fdiv (fmul ftwoPi (f64OfNat t)) (f64OfNat n)) = true := by
  obtain ⟨hfin, hmag⟩ := f64OfNat_exact (n := t) (by omega)
  obtain ⟨hfin8, hmag8⟩ := f64OfNat_exact ht
  obtain ⟨hfinn, hmagn⟩ := f64OfNat_exact hn'
  have hle : unitsPerOne ≤ fmag (f64OfNat n) := by
    rw [hmagn]
    exact Nat.le_mul_of_pos_left _ hn
  have hbound : fmag ftwoPi * fmag (f64OfNat t) ≤ fmag (f64OfNat (8 * t)) * unitsPerOne :=
    calc fmag ftwoPi * fmag (f64OfNat t)
        ≤ 2 ^ 3 * unitsPerOne * (t * unitsPerOne) := by
          rw [hmag]
          exact Nat.mul_le_mul_right _ fmag_ftwoPi_le
      _ = fmag (f64OfNat (8 * t)) * unitsPerOne := by rw [hmag8]; ring
  obtain ⟨hprod, hprodle⟩ := fmul_bound (by decide) hfin hfin8 hbound
  exact (fdiv_bound hprod hfinn (unitsPerOne_pos.trans_le hle) hfin8
    (Nat.mul_le_mul hprodle hle)).1

theorem twTable_isFinite {n : Nat} (hn : n ≤ 2 ^ 50) : ∀ c ∈ twTable n, ComplexIsFinite c := by
  refine List.forall_mem_map.2 fun t ht => ?_
  rw [List.mem_range] at ht
  have hangle := fisFinite_twiddleAngle (n := n) (t := t) (by omega) (by omega) (by omega)
  obtain ⟨hcoslo, hcoshi⟩ := fCos_bounds hangle
  obtain ⟨hsinlo, hsinhi⟩ := fSin_bounds hangle
  exact ⟨(fmag_le_of_unit_bounds hcoslo hcoshi).1,
    (fisFinite_fneg _).trans (fmag_le_of_unit_bounds hsinlo hsinhi).1⟩

theorem planReal_buildPlan_of_pow2 {n : Nat} (h : isPow2 n = true) (x : List F64) :
    planReal (buildPlan n) x = realP2 f64Arith (brevTable n) (twTable n) x n := by
  rw [buildPlan, if_pos h]
  rfl

/-- The power-of-two transform of zeros is zeros. -/
theorem planReal_isZero {n : Nat} (h : isPow2 n = true) (hn : n ≤ 2 ^ 50) {x : List F64}
    (hx : ∀ v ∈ x, fisZero v = true) : ∀ c ∈ planReal (buildPlan n) x, ComplexIsZero c := by
  rw [planReal_buildPlan_of_pow2 h]
  exact zeros_keptByDatapath.realP2 (twTable_isFinite hn) (fun v hv => ⟨hx v hv, fisZero_fzero⟩) _ n

end Sys2Proof.Machine

/-! SUPPORT. An all-zero waveform through SPECTROGRAM on the power-of-two path (R255 to R267, R272). -/

namespace Sys2Proof.Machine

variable {o : SgOps} {x win mel : List F64} {a b c : F64}

/-! ## The frame of zeros (R255, R258 to R260) -/

theorem replicate_fzero_isZero (n : Nat) : ∀ v ∈ List.replicate n fzero, fisZero v = true :=
  fun _ hv => List.eq_of_mem_replicate hv ▸ fisZero_fzero

theorem forall_mem_ite {α : Type} {P : α → Prop} {p : Prop} [Decidable p] {l l' : List α}
    (h : ∀ v ∈ l, P v) (h' : ∀ v ∈ l', P v) : ∀ v ∈ if p then l else l', P v := by
  split
  · exact h
  · exact h'

section
variable (hx : ∀ v ∈ x, fisZero v = true)
include hx

theorem rawFrame_isZero (t : Nat) : ∀ v ∈ rawFrame o x t, fisZero v = true := by
  refine List.forall_mem_map.2 fun j _ => ?_
  unfold paddedSample
  split
  · split
    · exact fisZero_fzero
    · exact forall_getD hx fisZero_fzero _
  · exact fisZero_fzero

/-- The mean of zeros is +0.0, whatever their signs. -/
theorem removeMean_isZero (hpos : 0 < x.length) (hlen : x.length ≤ 2 ^ 53) :
    ∀ v ∈ removeMean x, fisZero v = true := by
  obtain ⟨hfin, hmag⟩ := f64OfNat_exact hlen
  have hmean : fdiv (x.foldl fadd fzero) (f64OfNat x.length) = fzero := by
    rw [foldl_fadd_of_isZero hx]
    exact fzero_fdiv hfin (hmag ▸ Nat.mul_pos hpos unitsPerOne_pos) (fsign_fround ..)
  refine List.forall_mem_map.2 fun v hv => ?_
  rw [hmean]
  exact fisZero_fsub (hx v hv) fisZero_fzero

theorem preEmphasis_isZero {pre : F64} (hpre : fisFinite pre = true) :
    ∀ v ∈ preEmphasis pre x, fisZero v = true := by
  have hget := forall_getD hx fisZero_fzero
  refine List.forall_mem_map.2 fun j _ => ?_
  split
  · exact fisZero_fmul_left (hget 0) (fisFinite_fone_fsub hpre)
  · exact fisZero_fsub (hget j) (fisZero_fmul_right hpre (hget (j - 1)))

theorem frame_isZero (hfl : 0 < o.fl) (hfl' : o.fl ≤ 2 ^ 53) (hpre : fisFinite o.pre = true)
    (hwin : ∀ v ∈ win, fisFinite v = true) (t : Nat) : ∀ v ∈ frame o x win t, fisZero v = true := by
  have hraw := rawFrame_isZero (o := o) hx t
  have hlen : (rawFrame o x t).length = o.fl := by simp [rawFrame]
  have hdc : ∀ v ∈ if o.removeDc then removeMean (rawFrame o x t) else rawFrame o x t,
      fisZero v = true :=
    forall_mem_ite (removeMean_isZero hraw (hlen ▸ hfl) (hlen ▸ hfl')) hraw
  have hemph := forall_getD (forall_mem_ite (p := o.preemphEn) (preEmphasis_isZero hdc hpre) hdc)
    fisZero_fzero
  refine List.forall_mem_append.2
    ⟨List.forall_mem_map.2 fun j _ => ?_, replicate_fzero_isZero _⟩
  exact fisZero_fmul_left (hemph j) (forall_getD hwin (fisFinite_of_isZero fisZero_fzero) j)

end

/-! ## The column of zeros (R261 to R264) -/

theorem magSquared_of_isZero {z : C64} (h : ComplexIsZero z) : magSquared z = fzero := by
  rw [magSquared, fmul_self_of_isZero h.1, fmul_self_of_isZero h.2, fzero_fadd_of_isZero fisZero_fzero]

theorem sgBins_le (h : 1 < o.nfft) : sgBins o ≤ o.nfft := by
  unfold sgBins
  split <;> omega

/-- The bins of a frame of zeros have the magnitudes that a padded frame has. -/
theorem magnitudes_eq_replicate {t : Nat} (hp2 : isPow2 o.nfft = true) (hlo : 1 < o.nfft)
    (hhi : o.nfft ≤ 2 ^ 50) (hframe : ∀ v ∈ frame o x win t, fisZero v = true) :
    (frameBins o (buildPlan o.nfft) x win t).map magSquared
      = List.replicate (sgBins o) fzero := by
  refine List.eq_replicate_iff.2 ⟨?_, List.forall_mem_map.2 fun z hz => ?_⟩
  · simp [frameBins, sgBins_le hlo]
  · exact magSquared_of_isZero (planReal_isZero hp2 hhi hframe z (List.mem_of_mem_take hz))

theorem fPow_fzero_powerExp (rule : PowerExpRule) :
    fPow fzero (powerExp rule fone) = fzero := by
  cases rule with
  | twoOverPower => exact fPow_zero_left (by decide +kernel)
  | powerOverTwo => exact fPow_zero_left (by decide +kernel)

/-- Raising to the power leaves +0.0: the exponent of power 1.0 is positive under both rules (R262). -/
theorem powerMap_replicate_fzero (rule : PowerExpRule) {pw : F64} (hpw : pw = fone ∨ pw = ftwo)
    (n : Nat) : powerMap rule pw (List.replicate n fzero) = List.replicate n fzero := by
  unfold powerMap
  rcases hpw with rfl | rfl
  · rw [if_neg (by decide), List.map_replicate, fPow_fzero_powerExp]
  · rw [if_pos (by decide)]

theorem melDot_replicate_fzero (hmel : ∀ v ∈ mel, fisFinite v = true) (mc nb m : Nat) :
    melDot mel mc nb (List.replicate nb fzero) m = fzero := by
  refine List.foldl_fixed' (fun f => ?_) _
  refine fzero_fadd_of_isZero (fisZero_fmul_right ?_ ?_)
  · exact forall_getD hmel (fisFinite_of_isZero fisZero_fzero) _
  · exact forall_getD (replicate_fzero_isZero nb) fisZero_fzero f

theorem melProject_replicate_fzero (hmel : ∀ v ∈ mel, fisFinite v = true) :
    melProject o mel (List.replicate (sgBins o) fzero) = List.replicate (sgRows o) fzero := by
  unfold melProject sgRows
  split
  · refine List.eq_replicate_iff.2 ⟨by simp, List.forall_mem_map.2 fun m _ => ?_⟩
    exact melDot_replicate_fzero hmel _ _ m
  · rfl

/-! ## The floor in dB (R265 to R267) -/

theorem fmax_of_ftotal_le (ha : fisNaN a = false) (hb : fisNaN b = false)
    (h : ftotal a ≤ ftotal b) : fmax a b = b :=
  ftotal_injective (by rw [ftotal_fmax ha hb, max_eq_right h])

theorem flt_of_flt_of_fle (hab : flt a b = true) (hbc : fle b c = true) : flt a c = true := by
  simp only [flt, fle, Bool.and_eq_true, decide_eq_true_eq] at hab hbc ⊢
  exact ⟨⟨hab.1.1, hbc.1.2⟩, hab.2.trans_le hbc.2⟩

/-- Among values without a sign R15's order is the order of the comparisons. -/
theorem ftotal_le_of_fle (ha : fsign a = false) (hb : fsign b = false) (h : fle a b = true) :
    ftotal a ≤ ftotal b := by
  simp only [fle, Bool.and_eq_true, decide_eq_true_eq] at h
  have hkey := h.2
  rw [fkey_eq, fkey_eq, ha, hb] at hkey
  rw [ftotal_eq, ftotal_eq, ha, hb]
  exact hkey

theorem fmax_of_zero_flt_of_fle (ha : flt fzero a = true) (h : fle a b = true) : fmax a b = b := by
  have hb := flt_of_flt_of_fle ha h
  exact fmax_of_ftotal_le (fisNaN_of_flt ha).2 (fisNaN_of_flt hb).2
    (ftotal_le_of_fle (fsign_of_zero_flt ha) (fsign_of_zero_flt hb) h)

theorem fmax_fzero_right (ha : flt fzero a = true) : fmax a fzero = a := by
  have hn := (fisNaN_of_flt ha).2
  have hle : ftotal fzero ≤ ftotal a := by
    rw [show ftotal fzero = 0 by decide, ftotal_eq, fsign_of_zero_flt ha]
    exact Int.natCast_nonneg _
  rw [fmax_comm hn (by decide), fmax_of_ftotal_le (by decide) hn hle]

/-- A column of +0.0 comes out as the dB value of the floor (R265 to R267). -/
theorem realColumn_replicate_fzero (rule : PowerExpRule) (hlog : o.logMel = 3)
    (hpw : o.pw = fone ∨ o.pw = ftwo) (hmin : flt fzero o.minv = true)
    (hflo : fle o.minv o.flo = true) (hmel : ∀ v ∈ mel, fisFinite v = true) :
    realColumn rule o mel (List.replicate (sgBins o) fzero)
      = List.replicate (sgRows o)
          (fsub (fmul (dbFactor o.pw) (fLog10 o.flo))
            (fmul (dbFactor o.pw) (fLog10 (fmax o.minv o.ref)))) := by
  have hpos := flt_of_flt_of_fle hmin hflo
  have hdb : logValue o o.flo = dbValue o o.flo := by simp [logValue, hlog]
  rw [realColumn, powerMap_replicate_fzero rule hpw, melProject_replicate_fzero hmel, floorClip,
    List.map_replicate, List.map_replicate, fmax_fzero_right hpos, hdb, dbValue,
    fmax_of_zero_flt_of_fle hmin hflo]

/-- Settles O55: the frame, its bins and its magnitudes are zeros, as in a padded frame, and the floor takes
their place. -/
theorem allZeroWaveformIsConstantInDb : Obligations.AllZeroWaveformIsConstantInDb := by
  intro rule o x win mel t hp2 hlo hhi hfl hfl' hlog hpw hpre hmin hflo hx hwin hmel
  have hframe := frame_isZero hx hfl (by omega) hpre hwin t
  have hcol : (if t < sgCompCount o then (frameBins o (buildPlan o.nfft) x win t).map magSquared
      else List.replicate (sgBins o) fzero) = List.replicate (sgBins o) fzero := by
    rw [magnitudes_eq_replicate hp2 hlo (by omega) hframe, ite_self]
  rw [realFrame, hcol, realColumn_replicate_fzero rule hlog hpw hmin hflo hmel]

end Sys2Proof.Machine

/-! SUPPORT. The control command NOP (R300). -/

namespace Sys2Proof.Machine

/-- Settles O8: NOP has no check to fail, and its phase 3 writes no interval and changes no register. -/
theorem nopOnlyCompletes : Obligations.NopOnlyCompletes := by
  intro s
  have hphase : Phase3 s .nop s := .nop
  exact ⟨_, exec_nop, hphase.succeeded, bytesKept_of_empty hphase.bytesKeptOutside rfl,
    hphase.planKept nofun, hphase.shapeKept nofun, hphase.hostSideKept⟩

end Sys2Proof.Machine

/-! SUPPORT. The failure of a command (R312). -/

namespace Sys2Proof.Machine

/-- Settles O19: a command whose checks find an error is `State.fail`, which sets the five fields of R312 only. -/
theorem failedCommandChangesNothingElse : Obligations.FailedCommandChangesNothingElse := by
  intro i s e hcheck
  exact exists_failedWith hcheck

end Sys2Proof.Machine

/-! SUPPORT. Reset (R350 to R356): the operations that change the level of `rst_n`, and what they leave. -/

namespace Sys2Proof.Machine

variable {s : State} {op : HostOp} {rest : List HostOp}

/-! ## The next operation of the host -/

theorem turn_host_of_inReset (hrst : s.rstN = false) : turn s = .host := by
  simp only [turn, hrst, Bool.false_and, Bool.false_eq_true, if_false]

theorem step_inReset (hrst : s.rstN = false) (hops : s.host = op :: rest) :
    step s = .next (serveInReset op { s with host := rest }) := by
  rw [step_host (turn_host_of_inReset hrst)]
  simp only [hostStep, hrst, hops]

/-- Outside reset the next operation is served, unless a held access comes first (R88). -/
theorem hostStep_serve (hrst : s.rstN = true) (hfree : s.status.busy = true ∨ s.held = none)
    (hops : s.host = op :: rest) :
    hostStep s = serve op { s with host := rest, latency := s.latency - 1 } := by
  cases hb : s.status.busy with
  | true => exact hostStep_busy hrst hb hops
  | false => simp only [hostStep, hrst, hb, hfree.resolve_left (Bool.eq_false_iff.1 hb), hops]

/-! ## The level of `rst_n` -/

theorem setRstN_same {level : Bool} (h : s.rstN = level) : setRstN level s = s := if_pos h.symm

theorem setRstN_rise (hrst : s.rstN = false) : setRstN true s = resetRise s := by
  simp [setRstN, hrst]

theorem setRstN_fall (hrst : s.rstN = true) : setRstN false s = resetFall s := by
  simp [setRstN, hrst]

theorem step_reset_fall (hrst : s.rstN = true) (hturn : turn s = .host)
    (hfree : s.status.busy = true ∨ s.held = none) (hops : s.host = .rstN false :: rest) :
    step s = .next (resetFall { s with host := rest, latency := s.latency - 1 }) := by
  rw [step_host hturn, hostStep_serve hrst hfree hops]
  exact congrArg Host.Outcome.next (setRstN_fall hrst)

theorem step_reset_rise (hrst : s.rstN = false) (hops : s.host = .rstN true :: rest) :
    step s = .next (resetRise { s with host := rest }) := by
  rw [step_inReset hrst hops]
  exact congrArg Host.Outcome.next (setRstN_rise hrst)

/-! ## The held access at the fall (R350) -/

theorem resp_resetFall_of_held (h : s.held ≠ none) : (resetFall s).resp = some .busError :=
  if_pos (Option.isSome_iff_ne_none.2 h)

theorem resp_resetFall_of_free (h : s.held = none) : (resetFall s).resp = s.resp := by
  simp [resetFall, h]

/-- Settles O36: the fall of `rst_n` is `resetFall`, and in reset a transaction only gets its answer. -/
theorem resetAbandonsTheCommand : Obligations.ResetAbandonsTheCommand := by
  refine ⟨fun s rest hrst hturn hfree hops => ?_, fun s a rest hrst hops => step_inReset hrst hops⟩
  exact ⟨_, step_reset_fall hrst hturn hfree hops, rfl, rfl, rfl, rfl, resp_resetFall_of_held,
    resp_resetFall_of_free, rfl, rfl⟩

/-- Settles O37: the rise of `rst_n` is `resetRise`, which gives every element of the block anew. -/
theorem releasedResetGivesTheResetState : Obligations.ReleasedResetGivesTheResetState :=
  fun _ _ => step_reset_rise

/-- Settles O38: `resetOf` meets the invariant under legal parameters, and R6's defaults are legal. -/
theorem resetSatisfiesTheInvariant : Obligations.ResetSatisfiesTheInvariant :=
  ⟨fun _ => resetOf_inv, resetOf_inv (by decide)⟩

end Sys2Proof.Machine

/-! SUPPORT. A running command ends (R362): the engine's turn ends it, and each turn the host takes before
it uses up one of the latency's steps or ends it by reset. -/

namespace Sys2Proof.Machine

variable {s t : State}

/-! ## The end of the running command -/

/-- After `k` steps BUSY is 0, or the machine has stopped at a DMEM word that nothing has written. -/
def EndsAfter (k : Nat) (s : State) : Prop :=
  (∃ t, Host.Core.run Sys2Proof.core k s = .next t ∧ t.status.busy = false) ∨
    Host.Core.run Sys2Proof.core k s = .fault Fault.unwrittenRead

theorem endsAfter_zero (hb : s.status.busy = false) : EndsAfter 0 s := .inl ⟨s, rfl, hb⟩

theorem EndsAfter.of_step {k : Nat} (ht : EndsAfter k t) (h : step s = .next t) :
    EndsAfter (k + 1) s := by
  rw [EndsAfter, run_next k h]
  exact ht

theorem endsAfter_one_of_engine (hturn : turn s = .engine) : EndsAfter 1 s := by
  rcases engineStep_cases s with ⟨e, hx⟩ | ⟨i, u, -, -, -, hx⟩ | hx <;>
    rw [← step_engine hturn] at hx
  · exact (endsAfter_zero rfl).of_step hx
  · exact (endsAfter_zero rfl).of_step hx
  · exact .inr (run_fault 0 hx)

/-! ## The host's operations while a command runs -/

/-- The command that runs in `s` runs on in `t`, as far from its completion as before. -/
structure RunsOn (s t : State) : Prop where
  rstN : t.rstN = s.rstN
  busy : t.status.busy = s.status.busy
  latency : t.latency = s.latency

/-- A write of CMD is rejected while a command runs (R115); no other register write touches it. -/
theorem runsOn_writeReg (hb : s.status.busy = true) (r : Reg) (w : Word) :
    RunsOn s (writeReg r w s) := by
  cases r with
  | CMD =>
    rw [writeReg, writeCmd_of_busy w hb]
    exact ⟨rfl, rfl, rfl⟩
  | _ => exact ⟨rfl, rfl, rfl⟩

theorem runsOn_busAccess (hb : s.status.busy = true) {a : BusTxn} (h : busAccess a s = .next t) :
    RunsOn s t := by
  rcases busAccess_cases h with ⟨r, rfl⟩ | ⟨r, w, -, rfl⟩ | ⟨k, w, -, -, rfl⟩
  · exact ⟨rfl, rfl, rfl⟩
  · obtain ⟨hrst, hbusy, hlat⟩ := runsOn_writeReg hb r w
    exact ⟨hrst, hbusy, hlat⟩
  · exact ⟨rfl, rfl, rfl⟩

theorem exists_busAccess_of_not_window {a : BusTxn} (hwin : inDmemWindow s.params a.addr = false) :
    ∃ t, busAccess a s = .next t := by
  cases hreg : inRegBlock a.addr with
  | true => exact ⟨_, if_pos hreg⟩
  | false => exact ⟨_, busAccess_of_outside hreg hwin⟩

/-- A read of DMEM is held while a command runs (R88), so no bus access stops the machine. -/
theorem exists_busIssue_runsOn (hb : s.status.busy = true) (a : BusTxn) :
    ∃ t, busIssue a s = .next t ∧ RunsOn s t := by
  cases hwin : inDmemWindow s.params a.addr with
  | true => exact ⟨_, busIssue_held hb hwin, rfl, rfl, rfl⟩
  | false =>
    obtain ⟨t, ht⟩ := exists_busAccess_of_not_window hwin
    refine ⟨t, ?_, runsOn_busAccess hb ht⟩
    rw [busIssue, hwin, Bool.and_false]
    exact ht

theorem runsOn_serveWait (s : State) : RunsOn s (serveWait s) := by
  unfold serveWait
  split <;> exact ⟨rfl, rfl, rfl⟩

theorem exists_serve_running (hrst : s.rstN = true) (hb : s.status.busy = true) (op : HostOp) :
    ∃ t, serve op s = .next t ∧ (t.status.busy = false ∨ RunsOn s t) := by
  cases op with
  | bus a =>
    obtain ⟨t, ht, hruns⟩ := exists_busIssue_runsOn hb a
    exact ⟨t, ht, .inr hruns⟩
  | rmw r mask value => exact ⟨_, rfl, .inr ⟨rfl, rfl, rfl⟩⟩
  | wait => exact ⟨_, rfl, .inr (runsOn_serveWait s)⟩
  | rstN level =>
    refine ⟨_, rfl, ?_⟩
    cases level with
    | true =>
      rw [setRstN_same hrst]
      exact .inr ⟨rfl, rfl, rfl⟩
    | false =>
      rw [setRstN_fall hrst]
      exact .inl rfl

/-! ## The host's turn while a command runs -/

theorem exists_op_of_hostMoves (h : hostMoves s = true) : ∃ op rest, s.host = op :: rest := by
  cases hops : s.host with
  | nil => simp [hostMoves, hops] at h
  | cons op rest => exact ⟨op, rest, rfl⟩

/-- The host has the turn only with an operation to serve, and serving it uses up one step of the latency
or ends the command by reset. -/
theorem exists_step_of_host_turn (hrst : s.rstN = true) (hb : s.status.busy = true)
    (hturn : turn s = .host) :
    ∃ t, step s = .next t ∧ (t.status.busy = false ∨
      (t.rstN = true ∧ t.status.busy = true ∧ t.latency = s.latency - 1)) := by
  have hmoves : hostMoves s = true := by
    by_contra hstuck
    exact absurd (hturn.symm.trans
      (turn_engine_iff.2 ⟨hrst, hb, .inr (Bool.eq_false_iff.2 hstuck)⟩)) nofun
  obtain ⟨op, rest, hops⟩ := exists_op_of_hostMoves hmoves
  rw [step_host hturn, hostStep_busy hrst hb hops]
  obtain ⟨t, ht, hover | ⟨hrst', hb', hlat⟩⟩ :=
    exists_serve_running (s := { s with host := rest, latency := s.latency - 1 }) hrst hb op
  · exact ⟨t, ht, .inl hover⟩
  · exact ⟨t, ht, .inr ⟨hrst'.trans hrst, hb'.trans hb, hlat⟩⟩

/-- By induction on the latency, at whose end the engine has the turn. -/
theorem exists_endsAfter_of_running {n : Nat} (hlat : s.latency = n) (hrst : s.rstN = true)
    (hb : s.status.busy = true) : ∃ k ≤ n + 1, EndsAfter k s := by
  induction n generalizing s with
  | zero => exact ⟨1, le_rfl, endsAfter_one_of_engine (turn_engine_iff.2 ⟨hrst, hb, .inl hlat⟩)⟩
  | succ n ih =>
    cases hturn : turn s with
    | engine => exact ⟨1, by omega, endsAfter_one_of_engine hturn⟩
    | host =>
      obtain ⟨t, ht, hover | ⟨hrst', hb', hlat'⟩⟩ := exists_step_of_host_turn hrst hb hturn
      · exact ⟨1, by omega, (endsAfter_zero hover).of_step ht⟩
      · obtain ⟨k, hk, hends⟩ := ih (s := t) (by omega) hrst' hb'
        exact ⟨k + 1, by omega, hends.of_step ht⟩

/-- Settles O7: the latency of the state bounds the host's turns before the engine's. -/
theorem runningCommandCompletesInFinitelyManySteps :
    Obligations.RunningCommandCompletesInFinitelyManySteps :=
  fun _ => exists_endsAfter_of_running rfl

end Sys2Proof.Machine

/-! SUPPORT. What the host's turn leaves of the commands' results (R353, R363). -/

namespace Sys2Proof.Machine

variable {s t : State}

/-- The plan with everything that shows it, and SPECTROGRAM's result registers (R44, R50, R270). -/
def resultRegs (s : State) :=
  (s.plan, s.planCurN, s.planM, s.planObuf, s.status.planValid, s.status.planBs,
    s.sgOutRows, s.sgOutFrames, s.sgCompFrames)

/-- The plan and the result registers are as they were, and ERR_CODE is too unless a command was accepted,
which clears it (R116). -/
def ResultsKept (s t : State) : Prop :=
  resultRegs t = resultRegs s ∧
    (t.errCode = s.errCode ∨
      (t.errCode = errNone ∧ s.status.busy = false ∧ t.status.busy = true))

theorem kept_of_resultRegs_eq (h : resultRegs t = resultRegs s) : PlanKept s t ∧ ShapeKept s t := by
  simp only [resultRegs, Prod.mk.injEq] at h
  obtain ⟨hplan, hcur, hm, hobuf, hvalid, hbs, hrows, hframes, hcomp⟩ := h
  exact ⟨⟨hplan, hcur, hm, hobuf, hvalid, hbs⟩, ⟨hrows, hframes, hcomp⟩⟩

theorem ResultsKept.refl (s : State) : ResultsKept s s := ⟨rfl, .inl rfl⟩

/-! ## Bus transactions -/

/-- The host writes none of these registers; a write of CMD clears ERR_CODE when it is accepted (R116). -/
theorem resultsKept_writeReg (r : Reg) (w : Word) (s : State) : ResultsKept s (writeReg r w s) := by
  cases r with
  | CMD =>
    cases hb : s.status.busy with
    | true =>
      rw [writeReg, writeCmd_of_busy w hb]
      exact ⟨rfl, .inl rfl⟩
    | false =>
      rw [writeReg, writeCmd_of_idle w hb]
      exact ⟨rfl, .inr ⟨rfl, hb, rfl⟩⟩
  | _ => exact ⟨rfl, .inl rfl⟩

theorem resultsKept_busAccess {a : BusTxn} (h : busAccess a s = .next t) : ResultsKept s t := by
  rcases busAccess_cases h with ⟨r, rfl⟩ | ⟨r, w, -, rfl⟩ | ⟨k, w, -, -, rfl⟩
  · exact ⟨rfl, .inl rfl⟩
  · exact resultsKept_writeReg r w s
  · exact ⟨rfl, .inl rfl⟩

theorem resultsKept_busIssue {a : BusTxn} (h : busIssue a s = .next t) : ResultsKept s t := by
  unfold busIssue at h
  split at h
  · cases h
    exact ⟨rfl, .inl rfl⟩
  · exact resultsKept_busAccess h

/-! ## The host's turn -/

/-- The fall of `rst_n` leaves them (R350); only its rise gives them reset values (R351). -/
theorem resultsKept_setRstN {level : Bool} (h : level = true → s.rstN = true) :
    ResultsKept s (setRstN level s) := by
  cases level with
  | true =>
    rw [setRstN_same (h rfl)]
    exact .refl s
  | false =>
    cases hrst : s.rstN with
    | true =>
      rw [setRstN_fall hrst]
      exact ⟨rfl, .inl rfl⟩
    | false =>
      rw [setRstN_same hrst]
      exact .refl s

theorem resultsKept_serveInReset {op : HostOp} (hop : op ≠ .rstN true) (s : State) :
    ResultsKept s (serveInReset op s) := by
  cases op with
  | bus | rmw | wait => exact ⟨rfl, .inl rfl⟩
  | rstN level => exact resultsKept_setRstN fun hl => absurd (congrArg HostOp.rstN hl) hop

theorem resultsKept_serve {op : HostOp} (hrst : s.rstN = true) (h : serve op s = .next t) :
    ResultsKept s t := by
  cases op with
  | bus a => exact resultsKept_busIssue h
  | rmw r mask value =>
    cases h
    exact ⟨rfl, .inl rfl⟩
  | wait =>
    cases h
    unfold serveWait
    split <;> exact ⟨rfl, .inl rfl⟩
  | rstN level =>
    cases h
    exact resultsKept_setRstN fun _ => hrst

theorem resultsKept_hostStep (h : hostStep s = .next t) (hr : ¬ ReleasesReset s) :
    ResultsKept s t := by
  rcases hostStep_cases h with rfl | ⟨op, rest, hrst, hops, rfl⟩ | ⟨a, -, -, -, hacc⟩ |
    ⟨op, rest, hrst, -, -, hserve⟩
  · exact .refl _
  · have hop : op ≠ .rstN true := fun ho => hr ⟨hrst, rest, ho ▸ hops⟩
    exact resultsKept_serveInReset hop { s with host := rest }
  · exact resultsKept_busAccess (s := { s with held := none }) hacc
  · exact resultsKept_serve (s := { s with host := rest, latency := s.latency - 1 }) hrst hserve

/-- Settles O42: none of the host's operations but the release of reset touches a result. -/
theorem resultRegistersChangeOnlyAtCompletion :
    Obligations.ResultRegistersChangeOnlyAtCompletion := by
  intro s t hs hturn hr
  obtain ⟨hregs, hcode⟩ := resultsKept_hostStep (step_host hturn ▸ hs) hr
  obtain ⟨hplan, hshape⟩ := kept_of_resultRegs_eq hregs
  exact ⟨hplan, hshape, hcode⟩

/-! ## The plan (R353) -/

theorem plan_of_engineStep (h : engineStep s = .next t) :
    t.plan = s.plan ∨ (decode s.cmd = .ok .plan ∧ commandError .plan s = none ∧
      t.plan = some (buildPlan s.snap.planN.toNat)) := by
  rcases engineStep_cases s with ⟨e, hx⟩ | ⟨i, u, hd, hce, hu, hx⟩ | hx <;> rw [hx] at h <;> cases h
  · exact .inl rfl
  · rcases eq_or_ne i .plan with rfl | hi
    · cases hu
      exact .inr ⟨hd, hce, rfl⟩
    · exact .inl (hu.planKept hi).plan

/-- Settles O40: of the commands only PLAN, and of the host's operations only the release of reset. -/
theorem planChangesOnlyByPlanOrReset : Obligations.PlanChangesOnlyByPlanOrReset := by
  intro s t hs
  cases hturn : turn s with
  | engine => exact (plan_of_engineStep (step_engine hturn ▸ hs)).imp_right fun h => .inl ⟨rfl, h⟩
  | host =>
    by_cases hr : ReleasesReset s
    · obtain ⟨hrst, rest, hops⟩ := hr
      rw [step_reset_rise hrst hops] at hs
      cases hs
      exact .inr (.inr ⟨⟨hrst, rest, hops⟩, rfl⟩)
    · obtain ⟨hregs, -⟩ := resultsKept_hostStep (step_host hturn ▸ hs) hr
      obtain ⟨hplan, -⟩ := kept_of_resultRegs_eq hregs
      exact .inl hplan.plan

end Sys2Proof.Machine
